-- ==== Sys2Proof/Word.lean ====
section
/-! DEFINITION. The words of the block (spec/00_scope.md R8): `uN` is `BitVec N`. -/

namespace Sys2Proof

/-- A byte on the wire or in a message. -/
abbrev Byte := BitVec 8

/-- A register word, `u32`. -/
abbrev Word := BitVec 32

/-- A `u64` quantity: a frame count, a time stamp, an operand slot. -/
abbrev U64 := BitVec 64

/-- A command word of the command port (30_encoding R80): 224 bits, fixed length. -/
abbrev CommandWord := BitVec 224

end Sys2Proof
end

