-- ==== Sys2Proof/Config.lean ====
section
/-! DEFINITION. The parameters of the block (spec/00_scope.md R6) as a record, their default values, and the free
values: what the environment answers where no queue of inputs says it. -/

namespace Sys2Proof

/-- The registers the block reads (20_memory R41). -/
inductive ReadReg where
  | status
  | tcoLtcIn
  | tcoStat
deriving DecidableEq, Repr

/-- The registers the block writes (20_memory R41). -/
inductive WriteReg where
  | control
  | irqAck
  | tcoLtcOut
  | tcoCtl
  | tcoCtl2
deriving DecidableEq, Repr

/-- `FAMILY` (00_scope R6). The spec has two values; `unrecognised` is the third one that 93_implementation_defined
U3 lets a model keep, so that the class 4 error of 40_frame_counter R90 has its path. `Config.ok` excludes it. -/
inductive Family where
  | legacy
  | new
  | unrecognised
deriving DecidableEq, Repr

/-- One entry of `RATE[c]` (30_encoding R63): the single-speed base rate and the speed factor. -/
structure RateEntry where
  sr1 : Nat
  sf : Nat
deriving DecidableEq, Repr

/-- `ADDR[r]` (20_memory R57): the byte address of each of the eight registers. -/
structure RegAddrs where
  control : Nat
  status : Nat
  irqAck : Nat
  tcoLtcIn : Nat
  tcoStat : Nat
  tcoLtcOut : Nat
  tcoCtl : Nat
  tcoCtl2 : Nat
deriving DecidableEq, Repr

/-- The eight addresses in the order of the table of 20_memory R41. -/
def RegAddrs.all (a : RegAddrs) : List Nat :=
  [a.control, a.status, a.irqAck, a.tcoLtcIn, a.tcoStat, a.tcoLtcOut, a.tcoCtl, a.tcoCtl2]

/-- The address of a register the block reads. -/
def RegAddrs.ofRead (a : RegAddrs) : ReadReg → Nat
  | .status => a.status
  | .tcoLtcIn => a.tcoLtcIn
  | .tcoStat => a.tcoStat

/-- The address of a register the block writes. -/
def RegAddrs.ofWrite (a : RegAddrs) : WriteReg → Nat
  | .control => a.control
  | .irqAck => a.irqAck
  | .tcoLtcOut => a.tcoLtcOut
  | .tcoCtl => a.tcoCtl
  | .tcoCtl2 => a.tcoCtl2

/-- The parameters of 00_scope R6. `irqAudioBit` and `irqMidiBit` are the positions of the flags of `STATUS`, which
30_encoding R62 says must move when `PTR_LSB` does (assumption 6). -/
structure Config where
  /-- `FAMILY` -/
  family : Family
  /-- `W_FIXED` -/
  wFixed : Nat
  /-- `PTR_LSB` -/
  ptrLsb : Nat
  /-- `PTR_WIDTH` -/
  ptrWidth : Nat
  /-- `PTR_SHIFT` -/
  ptrShift : Nat
  /-- the bit of `STATUS.IRQ_AUDIO`, default 16 -/
  irqAudioBit : Nat
  /-- the bit of `STATUS.IRQ_MIDI[0]`, default 17; port `p` has the bit `p` above it -/
  irqMidiBit : Nat
  /-- `N_MIDI` -/
  nMidi : Nat
  /-- `DRIFT_N` -/
  driftN : Nat
  /-- `CALIB[f][m]`: one row for each frame-rate code, one column for each speed mode -/
  calib : List (List Int)
  /-- `RATE[c]`: sixteen entries, `none` for a reserved code -/
  rates : List (Option RateEntry)
  /-- `ADDR[r]` -/
  addr : RegAddrs
  /-- `POLL_UNIT_NS` -/
  pollUnitNs : Nat
  /-- `WC_BITS`, fixed at 64 by 10_state R17 -/
  wcBits : Nat
deriving DecidableEq, Repr

/-- The default of `RATE[c]` (30_encoding R63): `c[1:0]` picks the base rate, `c[3:2]` the speed. -/
def standardRates : List (Option RateEntry) :=
  [some ⟨32000, 1⟩, some ⟨44100, 1⟩, some ⟨48000, 1⟩, none,
   some ⟨32000, 2⟩, some ⟨44100, 2⟩, some ⟨48000, 2⟩, none,
   some ⟨32000, 4⟩, some ⟨44100, 4⟩, some ⟨48000, 4⟩, none,
   none, none, none, none]

/-- The default parameters of 00_scope R6. The addresses are open there: the eight multiples of 4 here are a
DESIGN CHOICE (assumption 4, unsafe only for a claim that names an address). -/
def Config.standard : Config :=
  { family := .new
    wFixed := 16384
    ptrLsb := 0
    ptrWidth := 16
    ptrShift := 4
    irqAudioBit := 16
    irqMidiBit := 17
    nMidi := 4
    driftN := 30
    calib := [[0, 0, 0], [0, 0, 0], [0, 0, 0], [0, 0, 0]]
    rates := standardRates
    addr := ⟨0, 4, 8, 12, 16, 20, 24, 28⟩
    pollUnitNs := 1000000000
    wcBits := 64 }

/-- FREE VALUE: what a register read answers when the environment has queued nothing, by the number of free values
drawn before (10_state R34: "free draws"; assumption 1). -/
opaque Config.freeRead : ReadReg → Nat → Word

/-- FREE VALUE: a sample of `Env.now_ns` when none is queued (10_state R35; assumption 1). -/
opaque Config.freeNow : Nat → U64

/-- FREE VALUE: a sample of `Env.wall_sec` when none is queued (10_state R35; assumption 1). -/
opaque Config.freeWallSec : Nat → Nat

/-- FREE VALUE: a sample of `Env.wall_nsec`, `0 .. 999999999`, when none is queued (10_state R35; assumption 1). -/
opaque Config.freeWallNsec : Nat → Fin 1000000000

end Sys2Proof
end

