-- ==== Sys2Proof/Syntax.lean ====
section
/-! DEFINITION. The operations of the command port (spec/30_encoding.md R82), one constructor for each row of the
opcode map, with their operands at the widths of the map. -/

namespace Sys2Proof

/-- The direction operand of `PCM.ATTACH` and of a period notification (41_interrupt_scheduler R123): 0 capture,
1 playback. -/
inductive Direction where
  | capture
  | playback
deriving DecidableEq, Repr

/-- The 24 operations (30_encoding R82). A narrow operand has its width as its type, so an operand with bits above
its width cannot be written; such a command word is refused by the decoder (R83). The setters and `FC.SETLAT` take
the whole 64-bit slot (R81). -/
inductive Instr where
  /-- `DEV.INIT tco_present` -/
  | devInit (tcoPresent : Bool)
  /-- `DEV.SHUTDOWN` -/
  | devShutdown
  /-- `IRQ` -/
  | irq
  /-- `MIDI.DONE port` -/
  | midiDone (port : BitVec 2)
  /-- `POLL.SET rate` -/
  | pollSet (rate : Word)
  /-- `PCM.ATTACH direction, present` -/
  | pcmAttach (direction : Direction) (present : Bool)
  /-- `CTL.UPDATE mask, value` -/
  | ctlUpdate (mask value : Word)
  /-- `FC.SETLAT code` -/
  | fcSetlat (code : U64)
  /-- `FC.RESET` -/
  | fcReset
  /-- `FC.READ` -/
  | fcRead
  /-- `MTC.MSG ts, len, bytes` -/
  | mtcMsg (ts : U64) (len : BitVec 4) (bytes : BitVec 80)
  /-- `LTC.START code, target` -/
  | ltcStart (code : Word) (target : U64)
  /-- `LTC.START.NOW code` -/
  | ltcStartNow (code : Word)
  /-- `LTC.START.WALL seconds`, a two's-complement offset -/
  | ltcStartWall (seconds : U64)
  /-- `LTC.STOP` -/
  | ltcStop
  /-- `CFG.SYNC value` -/
  | cfgSync (value : U64)
  /-- `CFG.FPS value` -/
  | cfgFps (value : U64)
  /-- `CFG.SRATE value` -/
  | cfgSrate (value : U64)
  /-- `CFG.PULL value` -/
  | cfgPull (value : U64)
  /-- `CFG.WCK value` -/
  | cfgWck (value : U64)
  /-- `CFG.TERM value` -/
  | cfgTerm (value : U64)
  /-- `CFG.RUN value` -/
  | cfgRun (value : U64)
  /-- `CFG.FLYWHEEL value` -/
  | cfgFlywheel (value : U64)
  /-- `TCO.STATUS` -/
  | tcoStatus
deriving DecidableEq, Repr

/-- Why the decoder refuses a command word (30_encoding R83). Each of them is answered `E_INVAL`. -/
inductive DecodeError where
  /-- `op` is not in the table of R82 -/
  | unknownOpcode
  /-- `rsv` is not zero -/
  | reservedNonzero
  /-- a slot the format does not use is not zero -/
  | unusedSlotNonzero
  /-- a narrow operand has a non-zero bit above its width -/
  | operandTooWide
deriving DecidableEq, Repr

end Sys2Proof
end

