-- ==== Sys2Proof/WellFormed.lean ====
section
/-! DEFINITION. What is well formed: a configuration (spec/00_scope.md R7), checked at every step, and a command word
(spec/30_encoding.md R83), stated here from the opcode map and independently of the decoder. An `Instr` needs no
check of its own: its operand types hold exactly the values of the map. -/

namespace Sys2Proof

/-! ### Configurations -/

/-- `FAMILY` is one of the two values of 00_scope R6. -/
def Config.familyKnown (c : Config) : Bool := c.family != .unrecognised

/-- `W_FIXED` is a power of two, at least `2 * 32` (00_scope R7), and a `u32` (10_state R15, assumption 7). -/
def Config.wrapOk (c : Config) : Bool :=
  decide (64 ≤ c.wFixed) && (List.range 32).any fun k => c.wFixed == 2 ^ k

/-- A bit of `STATUS` outside the pointer field (30_encoding R62). -/
def Config.flagBitOk (c : Config) (b : Nat) : Bool :=
  decide (b < 32) && (decide (b < c.ptrLsb) || decide (c.ptrLsb + c.ptrWidth ≤ b))

/-- `PTR_WIDTH = 16`, `PTR_SHIFT <= 15` (00_scope R7), the field inside the word. -/
def Config.pointerOk (c : Config) : Bool :=
  c.ptrWidth == 16 && decide (c.ptrShift ≤ 15) && decide (c.ptrLsb + c.ptrWidth ≤ 32)

/-- The flags of `STATUS` overlap neither the pointer field nor each other (30_encoding R62). -/
def Config.flagsOk (c : Config) : Bool :=
  c.flagBitOk c.irqAudioBit &&
    (List.range c.nMidi).all fun p => c.flagBitOk (c.irqMidiBit + p) && c.irqMidiBit + p != c.irqAudioBit

/-- `1 <= N_MIDI <= 4` (00_scope R7). -/
def Config.midiOk (c : Config) : Bool := decide (1 ≤ c.nMidi) && decide (c.nMidi ≤ 4)

/-- `DRIFT_N >= 1` (00_scope R7). -/
def Config.driftOk (c : Config) : Bool := decide (1 ≤ c.driftN)

/-- `CALIB` has an entry for each of the 4 frame-rate codes and 3 speed modes, each below `2^31` in magnitude
(00_scope R6, R7). -/
def Config.calibOk (c : Config) : Bool :=
  c.calib.length == 4 &&
    c.calib.all fun row => row.length == 3 && row.all fun x => decide (x.natAbs < 2147483648)

/-- An entry of `RATE`: speed factor 1, 2 or 4 (42_ltc_arith R135) and a base rate for which the bounds that R134,
R170 and R183 state hold (assumption 5). -/
def RateEntry.ok (e : RateEntry) : Bool :=
  (e.sf == 1 || e.sf == 2 || e.sf == 4) && decide (32000 ≤ e.sr1) && decide (e.sr1 ≤ 48000)

/-- `RATE` has sixteen places and an entry at each code that is not reserved (30_encoding R63). -/
def Config.ratesOk (c : Config) : Bool :=
  c.rates.length == 16 &&
    [0, 1, 2, 4, 5, 6, 8, 9, 10].all fun k =>
      match c.rates[k]? with
      | some (some e) => e.ok
      | _ => false

/-- The eight addresses are 4-byte aligned and pairwise distinct (20_memory R57). -/
def Config.addrOk (c : Config) : Bool :=
  (c.addr.all.all fun a => a % 4 == 0) && decide c.addr.all.Nodup

/-- `WC_BITS = 64` (10_state R17). -/
def Config.wcBitsOk (c : Config) : Bool := c.wcBits == 64

/-- The constraints a configuration must satisfy, "otherwise the model refuses it" (00_scope R7, 20_memory R57). -/
def Config.ok (c : Config) : Bool :=
  c.familyKnown && c.wrapOk && c.pointerOk && c.flagsOk && c.midiOk && c.driftOk && c.calibOk && c.ratesOk &&
    c.addrOk && c.wcBitsOk

/-! ### Command words -/

/-- One row of the opcode map (30_encoding R82): the opcode and how many bits of each slot it uses, 0 for a slot its
format does not use (R81). -/
structure OpcodeRow where
  op : Nat
  aBits : Nat
  bBits : Nat
  cBits : Nat
deriving DecidableEq, Repr

/-- The opcode map (30_encoding R82), in its order. -/
def opcodeMap : List OpcodeRow :=
  [⟨0x01, 1, 0, 0⟩, ⟨0x02, 0, 0, 0⟩, ⟨0x10, 0, 0, 0⟩, ⟨0x11, 2, 0, 0⟩, ⟨0x12, 32, 0, 0⟩, ⟨0x13, 1, 1, 0⟩,
   ⟨0x14, 32, 32, 0⟩, ⟨0x20, 64, 0, 0⟩, ⟨0x21, 0, 0, 0⟩, ⟨0x22, 0, 0, 0⟩, ⟨0x30, 64, 4, 80⟩, ⟨0x40, 32, 64, 0⟩] ++
  [⟨0x41, 32, 0, 0⟩, ⟨0x42, 64, 0, 0⟩, ⟨0x43, 0, 0, 0⟩, ⟨0x50, 64, 0, 0⟩, ⟨0x51, 64, 0, 0⟩, ⟨0x52, 64, 0, 0⟩,
   ⟨0x53, 64, 0, 0⟩, ⟨0x54, 64, 0, 0⟩, ⟨0x55, 64, 0, 0⟩, ⟨0x56, 64, 0, 0⟩, ⟨0x57, 64, 0, 0⟩, ⟨0x58, 0, 0, 0⟩]

/-- The word has opcode `row.op` and a zero reserved byte, and each slot fits the bits the row uses of it. -/
def fitsRow (cw : CommandWord) (row : OpcodeRow) : Bool :=
  cw.toNat % 256 == row.op && cw.toNat / 256 % 256 == 0 &&
    decide (cw.toNat / 2 ^ 16 % 2 ^ 64 < 2 ^ row.aBits) &&
    decide (cw.toNat / 2 ^ 80 % 2 ^ 64 < 2 ^ row.bBits) &&
    decide (cw.toNat / 2 ^ 144 < 2 ^ row.cBits)

/-- A legal command word (30_encoding R83, read from the other side): it fits a row of the opcode map. -/
def legalWord (cw : CommandWord) : Bool := opcodeMap.any (fitsRow cw)

end Sys2Proof
end

