-- ==== Sys2Proof/Decode.lean ====
section
/-! DEFINITION. The decoder of command words (spec/30_encoding.md R80 to R83), total, refusing by name, and the
encoder. The word is given as one number, `cw = op | A << 16 | B << 80 | C << 144`. -/

namespace Sys2Proof

/-! ### The fields of a command word (R80) -/

/-- `cw[7:0]` -/
def opOf (cw : CommandWord) : BitVec 8 := cw.extractLsb' 0 8

/-- `cw[15:8]` -/
def rsvOf (cw : CommandWord) : BitVec 8 := cw.extractLsb' 8 8

/-- `cw[79:16]` -/
def slotA (cw : CommandWord) : U64 := cw.extractLsb' 16 64

/-- `cw[143:80]` -/
def slotB (cw : CommandWord) : U64 := cw.extractLsb' 80 64

/-- `cw[223:144]` -/
def slotC (cw : CommandWord) : BitVec 80 := cw.extractLsb' 144 80

/-- A command word from its five fields, the most significant first. -/
def commandWord (c : BitVec 80) (b a : U64) (op : BitVec 8) : CommandWord := c ++ b ++ a ++ 0#8 ++ op

/-! ### One-bit operands -/

/-- A one-bit operand in its slot. -/
def boolSlot (b : Bool) : U64 := if b then 1 else 0

/-- The direction operand in its slot (41_interrupt_scheduler R123). -/
def directionSlot : Direction → U64
  | .capture => 0
  | .playback => 1

/-- The direction a slot names; the slot is 0 or 1. -/
def directionOf (a : U64) : Direction := if a = 0 then .capture else .playback

/-! ### Decoding -/

/-- An operand slot of `bits` bits (R81, R83): 0 bits is an unused slot, which must be zero. -/
def checkSlot (bits v : Nat) : Except DecodeError Unit :=
  if v < 2 ^ bits then .ok ()
  else if bits = 0 then .error .unusedSlotNonzero
  else .error .operandTooWide

/-- `i` if the three slots fit the bits its format uses of them. -/
def decodeSlots (cw : CommandWord) (aBits bBits cBits : Nat) (i : Instr) : Except DecodeError Instr :=
  match checkSlot aBits (slotA cw).toNat, checkSlot bBits (slotB cw).toNat, checkSlot cBits (slotC cw).toNat with
  | .ok _, .ok _, .ok _ => .ok i
  | .error e, _, _ => .error e
  | _, .error e, _ => .error e
  | _, _, .error e => .error e

/-- The operation `op` with its operands, by the opcode map (R82). -/
def decodeOp (cw : CommandWord) : Except DecodeError Instr :=
  let a := slotA cw
  let b := slotB cw
  match (opOf cw).toNat with
  | 0x01 => decodeSlots cw 1 0 0 (.devInit (a != 0))
  | 0x02 => decodeSlots cw 0 0 0 .devShutdown
  | 0x10 => decodeSlots cw 0 0 0 .irq
  | 0x11 => decodeSlots cw 2 0 0 (.midiDone (a.setWidth 2))
  | 0x12 => decodeSlots cw 32 0 0 (.pollSet (a.setWidth 32))
  | 0x13 => decodeSlots cw 1 1 0 (.pcmAttach (directionOf a) (b != 0))
  | 0x14 => decodeSlots cw 32 32 0 (.ctlUpdate (a.setWidth 32) (b.setWidth 32))
  | 0x20 => decodeSlots cw 64 0 0 (.fcSetlat a)
  | 0x21 => decodeSlots cw 0 0 0 .fcReset
  | 0x22 => decodeSlots cw 0 0 0 .fcRead
  | 0x30 => decodeSlots cw 64 4 80 (.mtcMsg a (b.setWidth 4) (slotC cw))
  | 0x40 => decodeSlots cw 32 64 0 (.ltcStart (a.setWidth 32) b)
  | 0x41 => decodeSlots cw 32 0 0 (.ltcStartNow (a.setWidth 32))
  | 0x42 => decodeSlots cw 64 0 0 (.ltcStartWall a)
  | 0x43 => decodeSlots cw 0 0 0 .ltcStop
  | 0x50 => decodeSlots cw 64 0 0 (.cfgSync a)
  | 0x51 => decodeSlots cw 64 0 0 (.cfgFps a)
  | 0x52 => decodeSlots cw 64 0 0 (.cfgSrate a)
  | 0x53 => decodeSlots cw 64 0 0 (.cfgPull a)
  | 0x54 => decodeSlots cw 64 0 0 (.cfgWck a)
  | 0x55 => decodeSlots cw 64 0 0 (.cfgTerm a)
  | 0x56 => decodeSlots cw 64 0 0 (.cfgRun a)
  | 0x57 => decodeSlots cw 64 0 0 (.cfgFlywheel a)
  | 0x58 => decodeSlots cw 0 0 0 .tcoStatus
  | _ => .error .unknownOpcode

/-- The decoder (R80 to R83): the operation a command word stands for, or why the word is illegal. -/
def decode (cw : CommandWord) : Except DecodeError Instr :=
  match decodeOp cw with
  | .error e => .error e
  | .ok i => if rsvOf cw = 0 then .ok i else .error .reservedNonzero

/-- The instruction of a word given as a number, bit 0 the least significant bit of the command word, the bits from
`nbits` on zero (assumption 18). -/
def decodeTableWord (nbits w : Nat) : Option Instr :=
  match decode (BitVec.ofNat 224 (w % 2 ^ nbits)) with
  | .ok i => some i
  | .error _ => none

/-! ### Encoding -/

/-- The opcode of an operation (R82). -/
def opcodeOf : Instr → BitVec 8
  | .devInit _ => 0x01
  | .devShutdown => 0x02
  | .irq => 0x10
  | .midiDone _ => 0x11
  | .pollSet _ => 0x12
  | .pcmAttach _ _ => 0x13
  | .ctlUpdate _ _ => 0x14
  | .fcSetlat _ => 0x20
  | .fcReset => 0x21
  | .fcRead => 0x22
  | .mtcMsg _ _ _ => 0x30
  | .ltcStart _ _ => 0x40
  | .ltcStartNow _ => 0x41
  | .ltcStartWall _ => 0x42
  | .ltcStop => 0x43
  | .cfgSync _ => 0x50
  | .cfgFps _ => 0x51
  | .cfgSrate _ => 0x52
  | .cfgPull _ => 0x53
  | .cfgWck _ => 0x54
  | .cfgTerm _ => 0x55
  | .cfgRun _ => 0x56
  | .cfgFlywheel _ => 0x57
  | .tcoStatus => 0x58

/-- What stands in slot A (R81: zero-extended, an unused slot zero). -/
def encodeA : Instr → U64
  | .devInit t => boolSlot t
  | .devShutdown => 0
  | .irq => 0
  | .midiDone p => p.setWidth 64
  | .pollSet r => r.setWidth 64
  | .pcmAttach d _ => directionSlot d
  | .ctlUpdate m _ => m.setWidth 64
  | .fcSetlat c => c
  | .fcReset => 0
  | .fcRead => 0
  | .mtcMsg ts _ _ => ts
  | .ltcStart c _ => c.setWidth 64
  | .ltcStartNow c => c.setWidth 64
  | .ltcStartWall o => o
  | .ltcStop => 0
  | .cfgSync v => v
  | .cfgFps v => v
  | .cfgSrate v => v
  | .cfgPull v => v
  | .cfgWck v => v
  | .cfgTerm v => v
  | .cfgRun v => v
  | .cfgFlywheel v => v
  | .tcoStatus => 0

/-- What stands in slot B: only four formats use it (R82). -/
def encodeB : Instr → U64
  | .pcmAttach _ v => boolSlot v
  | .ctlUpdate _ v => v.setWidth 64
  | .mtcMsg _ len _ => len.setWidth 64
  | .ltcStart _ t => t
  | .devInit _ | .devShutdown | .irq | .midiDone _ | .pollSet _ | .fcSetlat _ | .fcReset | .fcRead
  | .ltcStartNow _ | .ltcStartWall _ | .ltcStop | .cfgSync _ | .cfgFps _ | .cfgSrate _ | .cfgPull _ | .cfgWck _
  | .cfgTerm _ | .cfgRun _ | .cfgFlywheel _ | .tcoStatus => 0

/-- What stands in slot C: only `MTC.MSG` uses it (R82). -/
def encodeC : Instr → BitVec 80
  | .mtcMsg _ _ bytes => bytes
  | .pcmAttach _ _ | .ctlUpdate _ _ | .ltcStart _ _
  | .devInit _ | .devShutdown | .irq | .midiDone _ | .pollSet _ | .fcSetlat _ | .fcReset | .fcRead
  | .ltcStartNow _ | .ltcStartWall _ | .ltcStop | .cfgSync _ | .cfgFps _ | .cfgSrate _ | .cfgPull _ | .cfgWck _
  | .cfgTerm _ | .cfgRun _ | .cfgFlywheel _ | .tcoStatus => 0

/-- The command word of an operation (R80). -/
def encode (i : Instr) : CommandWord := commandWord (encodeC i) (encodeB i) (encodeA i) (opcodeOf i)

/-! ### Assembler syntax and pseudo-operations (R85, R86) -/

/-- The mnemonic of an operation (R82). -/
def mnemonicOf : Instr → String
  | .devInit _ => "DEV.INIT"
  | .devShutdown => "DEV.SHUTDOWN"
  | .irq => "IRQ"
  | .midiDone _ => "MIDI.DONE"
  | .pollSet _ => "POLL.SET"
  | .pcmAttach _ _ => "PCM.ATTACH"
  | .ctlUpdate _ _ => "CTL.UPDATE"
  | .fcSetlat _ => "FC.SETLAT"
  | .fcReset => "FC.RESET"
  | .fcRead => "FC.READ"
  | .mtcMsg _ _ _ => "MTC.MSG"
  | .ltcStart _ _ => "LTC.START"
  | .ltcStartNow _ => "LTC.START.NOW"
  | .ltcStartWall _ => "LTC.START.WALL"
  | .ltcStop => "LTC.STOP"
  | .cfgSync _ => "CFG.SYNC"
  | .cfgFps _ => "CFG.FPS"
  | .cfgSrate _ => "CFG.SRATE"
  | .cfgPull _ => "CFG.PULL"
  | .cfgWck _ => "CFG.WCK"
  | .cfgTerm _ => "CFG.TERM"
  | .cfgRun _ => "CFG.RUN"
  | .cfgFlywheel _ => "CFG.FLYWHEEL"
  | .tcoStatus => "TCO.STATUS"

/-- The numbers an operation is written with, in slot order (R85), message bytes apart. -/
def operandsOf : Instr → List Int
  | .devInit t => [(boolSlot t).toNat]
  | .midiDone p => [p.toNat]
  | .pollSet r => [r.toNat]
  | .pcmAttach d v => [(directionSlot d).toNat, (boolSlot v).toNat]
  | .ctlUpdate m v => [m.toNat, v.toNat]
  | .fcSetlat c => [c.toNat]
  | .mtcMsg ts len _ => [ts.toNat, len.toNat]
  | .ltcStart c t => [c.toNat, t.toNat]
  | .ltcStartNow c => [c.toNat]
  | .ltcStartWall o => [o.toInt]
  | .cfgSync v => [v.toNat]
  | .cfgFps v => [v.toNat]
  | .cfgSrate v => [v.toNat]
  | .cfgPull v => [v.toNat]
  | .cfgWck v => [v.toNat]
  | .cfgTerm v => [v.toNat]
  | .cfgRun v => [v.toNat]
  | .cfgFlywheel v => [v.toNat]
  | .devShutdown | .irq | .fcReset | .fcRead | .ltcStop | .tcoStatus => []

/-- Byte `i` of the message operand (R80): `C[8i+7:8i]`. -/
def messageByte (bytes : BitVec 80) (i : Nat) : Byte := bytes.extractLsb' (8 * i) 8

/-- The message bytes of a command, as many as its length says (R85's bracketed list). -/
def messageOf : Instr → List Byte
  | .mtcMsg _ len bytes => (List.range (min len.toNat 10)).map (messageByte bytes)
  | .devInit _ | .devShutdown | .irq | .midiDone _ | .pollSet _ | .pcmAttach _ _ | .ctlUpdate _ _ | .fcSetlat _
  | .fcReset | .fcRead | .ltcStart _ _ | .ltcStartNow _ | .ltcStartWall _ | .ltcStop | .cfgSync _ | .cfgFps _
  | .cfgSrate _ | .cfgPull _ | .cfgWck _ | .cfgTerm _ | .cfgRun _ | .cfgFlywheel _ | .tcoStatus => []

/-- A byte as two hexadecimal digits (R85's example: `[F1 00]`). -/
def hexByte (b : Byte) : String :=
  let digit (n : Nat) : String := (("0123456789ABCDEF".toList[n]?).getD '0').toString
  digit (b.toNat / 16) ++ digit (b.toNat % 16)

/-- A command as R85 writes it: the mnemonic, then the operands in slot order separated by commas, numbers in
decimal (R85 allows either base), message bytes as a bracketed list. -/
def assembly (i : Instr) : String :=
  let nums := (operandsOf i).map toString
  let msg := if opcodeOf i = 0x30 then ["[" ++ " ".intercalate ((messageOf i).map hexByte) ++ "]"] else []
  match nums ++ msg with
  | [] => mnemonicOf i
  | l => mnemonicOf i ++ " " ++ ", ".intercalate l

/-- `DEV.DISABLE`, the one pseudo-operation with an encoding of its own (R86): clear `START` and `IE_AUDIO`. -/
def devDisable : Instr := .ctlUpdate 0x21 0

end Sys2Proof
end

