-- ==== Sys2Proof/Machine/State.lean ====
section
/-! DEFINITION. The state of one device instance (spec/10_state.md), its inputs and outputs, the reasons a step can
stop, and the state after power-on. State is plain data. -/

namespace Sys2Proof.Machine

/-! ### Outputs: status codes, events, results -/

/-- The status an operation's result begins with (60_exceptions R230). -/
inductive Status where
  /-- `OK`, 0 -/
  | ok
  /-- `E_INVAL`, 1: an operand or the command word is outside its declared range -/
  | inval
  /-- `S_NEUTRAL`, 2: the device is down, or a timecode operation without TCO module -/
  | neutral
  /-- `W_RANGE`, 3: never the status of a command; the cause of the event `warnOffset` -/
  | range
  /-- `E_ASSERT`, 4: a branch that no well-formed state reaches was reached -/
  | assert
deriving DecidableEq, Repr

/-- `S.rt.pend_kind` (10_state R27). -/
inductive PendKind where
  | none
  | literal
  | now
  | wall
deriving DecidableEq, Repr

/-- The output events (10_state R36). -/
inductive Event where
  /-- `regwrite(r, v)` -/
  | regwrite (r : WriteReg) (v : Word)
  /-- `notify(PCM, d)` -/
  | notifyPcm (d : Direction)
  /-- `notify(CONFIG_CHANGED)` -/
  | notifyConfig
  /-- `notify(CTL_CHANGED, id)`, `id` the opcode of the setter -/
  | notifyCtl (id : BitVec 8)
  /-- `notify(PULL, v)` -/
  | notifyPull (v : Word)
  /-- `defer(MIDI_DRAIN)` -/
  | deferMidiDrain
  /-- `defer(STATUS_REFRESH)` -/
  | deferStatusRefresh
  /-- `warn(OFFSET_RANGE, v)`, the untruncated offset (44_ltc_encoder R183) -/
  | warnOffset (v : Int)
  /-- `fault(ASSERT)`: a class 4 assertion failed inside a step of `TCO.ELAPSED`, which was abandoned -/
  | faultAssert
deriving DecidableEq, Repr

/-- The snapshot record of `TCO.STATUS` (46_config_status R215), in its order. -/
structure Snapshot where
  tcoPresent : Bool
  ltcIn : Word
  ltcInTime : U64
  ltcInFps : BitVec 2
  ltcInValid : Bool
  ltcChanged : Bool
  pullFactor : Word
  ringCnt : Word
  syncSrc : BitVec 2
  fpsCode : BitVec 2
  srateMode : BitVec 2
  pull : BitVec 3
  wckConv : BitVec 2
  term75 : Bool
  run : Bool
  flywheel : Bool
  pendKind : PendKind
  outArmed : Bool
  outWarn : Bool
  outCode : Word
  outOffset : BitVec 14
  outStart : U64
  outAdjust : U64
  frameCount : U64
  periodSize : Word
  irqCount : Word
  ctl : Word
deriving DecidableEq, Repr

/-- The snapshot with every field 0, the answer of a device that is down (46_config_status R215). -/
def Snapshot.zero : Snapshot :=
  { tcoPresent := false, ltcIn := 0, ltcInTime := 0, ltcInFps := 0, ltcInValid := false, ltcChanged := false
    pullFactor := 0, ringCnt := 0, syncSrc := 0, fpsCode := 0, srateMode := 0, pull := 0, wckConv := 0
    term75 := false, run := false, flywheel := false, pendKind := .none, outArmed := false, outWarn := false
    outCode := 0, outOffset := 0, outStart := 0, outAdjust := 0, frameCount := 0, periodSize := 0, irqCount := 0
    ctl := 0 }

/-- The value of a result (10_state R37): nothing, a `u64` (of `FC.READ` and `IRQ`), or a snapshot. -/
inductive Value where
  | none
  | u64 (v : U64)
  | snapshot (s : Snapshot)
deriving DecidableEq, Repr

/-- The result record `(st, changed, val)` (10_state R37). -/
structure OpResult where
  st : Status
  changed : Bool
  val : Value
deriving DecidableEq, Repr

/-! ### The state of the block -/

/-- `S.hw` (10_state R12, R13). -/
structure HwRegs where
  ctl : Word
  status : Word
deriving DecidableEq, Repr

/-- `S.fc` (10_state R14 to R18). -/
structure FrameCounter where
  periodSize : Word
  hwBufferSize : Word
  lastHwPointer : Word
  wrapCount : U64
  frameCount : U64
deriving DecidableEq, Repr

/-- `S.sch` (10_state R19 to R22). A port that does not exist (`p >= N_MIDI`) is never pending. -/
structure Scheduler where
  irqCount : Word
  midiPending : Vector Bool 4
  pollRate : Word
  lastPollNs : U64
  capPresent : Bool
  pbPresent : Bool
deriving DecidableEq, Repr

/-- `S.cfg`, TcoConfig (10_state R23). -/
structure TcoConfig where
  syncSrc : BitVec 2
  fpsCode : BitVec 2
  srateMode : BitVec 2
  pull : BitVec 3
  wckConv : BitVec 2
  term75 : Bool
  run : Bool
  flywheel : Bool
deriving DecidableEq, Repr

/-- `S.rt`, TcoRuntime (10_state R24 to R33). `outAdjust` is an `i64` held in two's complement. -/
structure TcoRuntime where
  tcoPresent : Bool
  ltcIn : Word
  ltcInTime : U64
  ltcInValid : Bool
  ltcInFps : BitVec 2
  ltcChanged : Bool
  pendKind : PendKind
  pendCode : Word
  pendTarget : U64
  outArmed : Bool
  outCode : Word
  outOffset : BitVec 14
  outStart : U64
  outAdjust : U64
  outWarn : Bool
  ring : List U64
  ringPos : Nat
  ringCnt : Nat
  ringSum : U64
  lastMsgNs : U64
  lastMsgValid : Bool
  pullFactor : Word
deriving DecidableEq, Repr

/-- A sample of the real-time clock (10_state R35): seconds since its epoch and the nanosecond remainder. -/
structure WallTime where
  sec : Nat
  nsec : Fin 1000000000
deriving DecidableEq, Repr

/-- What the environment will answer (10_state R34, R35): for each register the block reads and for each clock, the
answers to come, the next one first. Where a list is empty the answer is a free value, drawn by `draws`
(assumption 1). These are the MODEL's fields for inputs, not fields of `S`. -/
structure Env where
  status : List Word
  ltcIn : List Word
  tcoStat : List Word
  now : List U64
  wall : List WallTime
  draws : Nat
deriving DecidableEq, Repr

/-- One device instance: the fields of `S` (`devUp` to `rt`), and the model's own: its parameters `conf`
(assumption 3), its inputs `env` (assumption 1) and `port`, the commands presented and not yet executed
(assumption 2), its outputs `events` and `results`, everything emitted and every result since power-on, oldest first
(assumption 10). -/
structure State where
  conf : Config
  devUp : Bool
  hw : HwRegs
  fc : FrameCounter
  sch : Scheduler
  cfg : TcoConfig
  rt : TcoRuntime
  env : Env
  port : List CommandWord
  events : List Event
  results : List OpResult
deriving DecidableEq, Repr

/-! ### Why a step can stop -/

/-- The machine has no fault that stops it: every error is a result of an operation (60_exceptions R230), register
access always succeeds (R236). So there is no constructor and nobody raises one (assumption 11). -/
inductive Fault where
deriving DecidableEq, Repr

/-- Why the model refuses to go on. -/
inductive Refusal where
  /-- Raised by `exec` for an instruction that has no meaning yet. No arm raises it. Safe. -/
  | notModelled (mnemonic : String)
  /-- Raised by `step` for an instance whose parameters break the constraints of 00_scope R7 ("otherwise the model
  refuses it") or those the model adds (assumptions 3, 5 to 8). Safe: nothing is claimed of such an instance. -/
  | illFormedConfiguration
deriving DecidableEq, Repr

/-! ### Reset values (10_state R38) -/

/-- `S.hw` at reset. -/
def HwRegs.reset : HwRegs := { ctl := 0, status := 0 }

/-- `S.fc` at reset: the period of latency code 0, and the wrap period that goes with it. -/
def FrameCounter.reset (c : Config) : FrameCounter :=
  { periodSize := 64
    hwBufferSize := if c.family = .new then BitVec.ofNat 32 c.wFixed else 128
    lastHwPointer := 0
    wrapCount := 0
    frameCount := 0 }

/-- `S.sch` at reset. -/
def Scheduler.reset : Scheduler :=
  { irqCount := 0, midiPending := Vector.replicate 4 false, pollRate := 0, lastPollNs := 0
    capPresent := false, pbPresent := false }

/-- `S.cfg` at reset. -/
def TcoConfig.reset : TcoConfig :=
  { syncSrc := 0, fpsCode := 0, srateMode := 0, pull := 0, wckConv := 0, term75 := false, run := false
    flywheel := false }

/-- `S.rt` at reset, without a TCO module. -/
def TcoRuntime.reset (c : Config) : TcoRuntime :=
  { tcoPresent := false
    ltcIn := 0, ltcInTime := 0, ltcInValid := false, ltcInFps := 0, ltcChanged := false
    pendKind := .none, pendCode := 0, pendTarget := 0
    outArmed := false, outCode := 0, outOffset := 0, outStart := 0, outAdjust := 0, outWarn := false
    ring := List.replicate c.driftN 0, ringPos := 0, ringCnt := 0, ringSum := 0
    lastMsgNs := 0, lastMsgValid := false, pullFactor := 0 }

/-- No answer queued, no free value drawn (assumption 1). -/
def Env.reset : Env := { status := [], ltcIn := [], tcoStat := [], now := [], wall := [], draws := 0 }

/-- Power-on of an instance with given parameters (70_reset R260): the device is down, every other field of `S` at
its reset value, nothing presented, nothing emitted. -/
def State.powerOn (c : Config) : State :=
  { conf := c
    devUp := false
    hw := HwRegs.reset
    fc := FrameCounter.reset c
    sch := Scheduler.reset
    cfg := TcoConfig.reset
    rt := TcoRuntime.reset c
    env := Env.reset
    port := []
    events := []
    results := [] }

/-- The machine right after reset: power-on with the default parameters of 00_scope R6. -/
def State.reset : State := State.powerOn Config.standard

end Sys2Proof.Machine
end

