-- ==== Sys2Proof/Machine/Operands.lean ====
section
/-! DEFINITION. The formats of register words, time codes and messages (spec/30_encoding.md R60 to R75). All are pure;
a decode function never fails and ignores reserved bits, an encode function leaves them 0 (20_memory R46). -/

namespace Sys2Proof.Machine

/-- `w[lo+len-1 : lo]` as a number (00_scope R8). -/
def bitField (w : Word) (lo len : Nat) : Nat := (w.extractLsb' lo len).toNat

/-! ### `CONTROL` (R61, R63, R64) -/

/-- The named fields of the control word (R61). -/
inductive CtlField where
  | start
  | lat
  | ieAudio
  | rate
  | ieMidi (port : Nat)
deriving DecidableEq, Repr

/-- The lowest bit of a field of the control word. -/
def ctlFieldLo : CtlField → Nat
  | .start => 0
  | .lat => 1
  | .ieAudio => 5
  | .rate => 6
  | .ieMidi p => 22 + p

/-- The width of a field of the control word. -/
def ctlFieldWidth : CtlField → Nat
  | .start => 1
  | .lat => 3
  | .ieAudio => 1
  | .rate => 4
  | .ieMidi _ => 1

/-- The bits of a field of the control word. -/
def ctlFieldMask (f : CtlField) : Word := BitVec.ofNat 32 ((2 ^ ctlFieldWidth f - 1) * 2 ^ ctlFieldLo f)

/-- The value of a field of the control word. -/
def ctlGet (w : Word) (f : CtlField) : Nat := bitField w (ctlFieldLo f) (ctlFieldWidth f)

/-- `ctl_set(w, field, v)` (R61): `w` with the field replaced by `v`, every other bit unchanged. -/
def ctlSet (w : Word) (f : CtlField) (v : Nat) : Word :=
  (w &&& ~~~ctlFieldMask f) ||| ((BitVec.ofNat 32 v <<< ctlFieldLo f) &&& ctlFieldMask f)

/-- The sample-rate code of a control word, `w[9:6]` (R61, R63). -/
def rateCode (ctl : Word) : BitVec 4 := ctl.extractLsb' 6 4

/-- The speed mode `m = c[3:2]` of a sample-rate code (R63). -/
def speedMode (c : BitVec 4) : Nat := (c.extractLsb' 2 2).toNat

/-- `rate_valid(c)` (R63). -/
def rateValid (c : BitVec 4) : Bool := c.extractLsb' 0 2 != 3#2 && c.extractLsb' 2 2 != 3#2

/-- What `sys_rate()` returns (R63). -/
structure SysRate where
  sr1 : Nat
  sf : Nat
  mode : Nat
deriving DecidableEq, Repr

/-- `sys_rate()` (R63) for a control word; `none` is the assertion on a reserved code (60_exceptions R235). -/
def sysRate (conf : Config) (ctl : Word) : Option SysRate :=
  let c := rateCode ctl
  if rateValid c then
    match conf.rates[c.toNat]? with
    | some (some e) => some ⟨e.sr1, e.sf, speedMode c⟩
    | _ => none
  else none

/-! ### LtcCode (R66 to R68) -/

/-- `LTC_CLEAN`: every bit that is not sync or reserved (R67). -/
def ltcClean : Word := 0x3f7f7f7f#32

/-- `LTC_DATA`: the eight digit fields (R67). -/
def ltcData : Word := 0x3f7f7f3f#32

/-- `LTC_DF`: the drop-frame flag (R67). -/
def ltcDf : Word := 0x00000040#32

/-- The fields of a time code: hours, minutes, seconds, frame number, drop-frame flag (R67). -/
structure LtcFields where
  h : Nat
  m : Nat
  s : Nat
  f : Nat
  df : Bool
deriving DecidableEq, Repr

/-- `ltc_fields(c)` (R67); it never fails. -/
def ltcFields (c : Word) : LtcFields :=
  { h := 10 * bitField c 28 2 + bitField c 24 4
    m := 10 * bitField c 20 3 + bitField c 16 4
    s := 10 * bitField c 12 3 + bitField c 8 4
    f := 10 * bitField c 4 2 + bitField c 0 4
    df := c.getLsbD 6 }

/-- One byte lane of `ltc_pack`: the units digit of `v` at bit `lo`, the low `width` bits of the tens above it. -/
def packLane (v width lo : Nat) : Word :=
  (BitVec.ofNat 32 (v % 10) <<< lo) ||| (BitVec.ofNat 32 (v / 10 % 2 ^ width) <<< (lo + 4))

/-- `ltc_pack(h, m, s, f, df)` (R67), for any non-negative integers; too large a tens digit is truncated. -/
def ltcPack (x : LtcFields) : Word :=
  packLane x.f 2 0 ||| ((BitVec.ofBool x.df).setWidth 32 <<< 6) |||
    packLane x.s 3 8 ||| packLane x.m 3 16 ||| packLane x.h 2 24

/-! ### The 14-bit offset (R72) -/

/-- `pack14(v)` (R72): the two groups of seven bits in the two low byte lanes. -/
def pack14 (v : BitVec 14) : Word :=
  let w : Word := v.setWidth 32
  (w &&& 0x7f#32) ||| (((w >>> 7) &&& 0x7f#32) <<< 8)

/-- `unpack14(w)` (R72): `(high7 << 7) | low7`. -/
def unpack14 (w : Word) : BitVec 14 :=
  ((((w >>> 8) &&& 0x7f#32) <<< 7) ||| (w &&& 0x7f#32)).setWidth 14

/-! ### `TCO_STAT`, `TCO_CTL`, `TCO_CTL2` (R69 to R71) -/

/-- The fields of `TCO_STAT` (R69). -/
structure TcoStat where
  offset : BitVec 14
  inFps : BitVec 2
  ltcValid : Bool
deriving DecidableEq, Repr

/-- Decoding `TCO_STAT` (R69): sync and uninterpreted bits are ignored. -/
def decodeTcoStat (t : Word) : TcoStat :=
  { offset := unpack14 t, inFps := t.extractLsb' 16 2, ltcValid := t.getLsbD 18 }

/-- A one-bit field at bit `lo` of a register word. -/
def flagAt (b : Bool) (lo : Nat) : Word := (BitVec.ofBool b).setWidth 32 <<< lo

/-- `tco_ctl_word()` (R70). -/
def tcoCtlWord (cfg : TcoConfig) (rt : TcoRuntime) : Word :=
  pack14 rt.outOffset ||| flagAt rt.outArmed 16 ||| flagAt cfg.run 17 ||| (cfg.fpsCode.setWidth 32 <<< 18) |||
    (cfg.syncSrc.setWidth 32 <<< 20) ||| flagAt cfg.term75 22 ||| (cfg.srateMode.setWidth 32 <<< 24) |||
    (cfg.pull.setWidth 32 <<< 26) ||| flagAt cfg.flywheel 29

/-- `tco_ctl2_word()` (R71). -/
def tcoCtl2Word (cfg : TcoConfig) : Word := cfg.wckConv.setWidth 32

/-! ### The frame-rate code (R73) -/

/-- What a frame-rate code carries: frame numbers per second, drop-frame counting, scale in parts per thousand. -/
structure FpsInfo where
  fps : Nat
  drop : Bool
  scale : Nat
deriving DecidableEq, Repr

/-- `fps_of(code)` (R73). -/
def fpsOf (code : BitVec 2) : FpsInfo :=
  match code.toNat with
  | 0 => ⟨24, false, 1000⟩
  | 1 => ⟨25, false, 1000⟩
  | 2 => ⟨30, true, 999⟩
  | _ => ⟨30, false, 1000⟩

/-! ### Timecode messages (R74) -/

/-- The class of a timecode message (R74). -/
inductive MsgClass where
  | full
  | quarter (piece : Nat)
  | malformed
deriving DecidableEq, Repr

/-- The full-frame pattern `F0 7F 7F 01 01 … F7`, payload bytes below `0x80` (R74). -/
def isFullFrame (len : BitVec 4) (b : BitVec 80) : Bool :=
  len == 10 && messageByte b 0 == 0xF0 && messageByte b 1 == 0x7F && messageByte b 2 == 0x7F &&
    messageByte b 3 == 0x01 && messageByte b 4 == 0x01 &&
    ([5, 6, 7, 8].all fun i => decide ((messageByte b i).toNat < 0x80)) && messageByte b 9 == 0xF7

/-- The quarter-frame pattern `F1 <piece><nibble>` (R74). -/
def isQuarterFrame (len : BitVec 4) (b : BitVec 80) : Bool :=
  len == 2 && messageByte b 0 == 0xF1 && decide ((messageByte b 1).toNat < 0x80)

/-- `msg_class(len, b)` (R74); the piece is `b[1][6:4]`. -/
def msgClass (len : BitVec 4) (b : BitVec 80) : MsgClass :=
  if isFullFrame len b then .full
  else if isQuarterFrame len b then .quarter ((messageByte b 1).extractLsb' 4 3).toNat
  else .malformed

/-- `qualifies(cls)` (R74): a full-frame message or a quarter-frame message of piece 0 or 4. -/
def qualifies : MsgClass → Bool
  | .full => true
  | .quarter p => p == 0 || p == 4
  | .malformed => false

/-! ### Numeric codes -/

/-- The number of a status (60_exceptions R230). -/
def statusCode : Status → Nat
  | .ok => 0
  | .inval => 1
  | .neutral => 2
  | .range => 3
  | .assert => 4

/-- The number of a pending kind (10_state R27). -/
def pendKindCode : PendKind → BitVec 2
  | .none => 0
  | .literal => 1
  | .now => 2
  | .wall => 3

end Sys2Proof.Machine
end

