-- ==== Sys2Proof/Machine/LtcArith.lean ====
section
/-! DEFINITION. Time-code arithmetic (spec/42_ltc_arith.md): pure functions of the decoder and the encoder. -/

namespace Sys2Proof.Machine

/-- The labels that drop-frame counting skips (R130): frames 0 and 1 of a minute that is no multiple of ten. -/
def droppedLabel (x : LtcFields) : Bool := x.s == 0 && decide (x.f < 2) && x.m % 10 != 0

/-- `ltc_valid(c, fps, drop)` (R130). -/
def ltcValid (c : Word) (fps : Nat) (drop : Bool) : Bool :=
  let x := ltcFields (c &&& ltcClean)
  decide (bitField c 0 4 ≤ 9) && decide (bitField c 8 4 ≤ 9) && decide (bitField c 16 4 ≤ 9) &&
    decide (bitField c 24 4 ≤ 9) && decide (x.f < fps) && decide (x.s < 60) && decide (x.m < 60) &&
    decide (x.h < 24) && !(drop && droppedLabel x)

/-- The carry chain of `ltc_inc` (R131), frames into seconds into minutes into hours. -/
def carryFields (x : LtcFields) (fps : Nat) : LtcFields :=
  if x.f + 1 < fps then { x with f := x.f + 1 }
  else if x.s + 1 < 60 then { x with f := 0, s := x.s + 1 }
  else if x.m + 1 < 60 then { x with f := 0, s := 0, m := x.m + 1 }
  else if x.h + 1 < 24 then { x with f := 0, s := 0, m := 0, h := x.h + 1 }
  else { x with f := 0, s := 0, m := 0, h := 0 }

/-- The fields one LTC frame later (R131): the carry chain, then the drop-frame skip. -/
def incFields (x : LtcFields) (fps : Nat) (drop : Bool) : LtcFields :=
  let y := carryFields x fps
  if drop && y.f == 0 && y.s == 0 && y.m % 10 != 0 then { y with f := 2 } else y

/-- `ltc_inc(c, fps, drop)` (R131), defined on every word. -/
def ltcInc (c : Word) (fps : Nat) (drop : Bool) : Word := ltcPack (incFields (ltcFields (c &&& ltcClean)) fps drop)

/-- `ltc_add(c, n, fps, drop)` (R136): `ltc_inc` applied `n` times. The iteration is the normative definition. -/
def ltcAdd (c : Word) (n fps : Nat) (drop : Bool) : Word :=
  match n with
  | 0 => c &&& ltcClean
  | k + 1 => ltcInc (ltcAdd c k fps drop) fps drop

/-- The index of a time code in the day, non-drop (R137). -/
def frameIndex (x : LtcFields) (fps : Nat) : Nat := ((x.h * 60 + x.m) * 60 + x.s) * fps + x.f

/-- The index of a label in the day, drop-frame at 30 (R137). -/
def dropIndex (x : LtcFields) : Nat :=
  let t := 60 * x.h + x.m
  108000 * x.h + 1800 * x.m + 30 * x.s + x.f - 2 * (t - t / 10)

/-- The closed form of `ltc_add` (R137), normative nowhere: offered for valid codes, to be proved equal there. -/
def ltcAddClosed (c : Word) (n fps : Nat) (drop : Bool) : Word :=
  let x := ltcFields (c &&& ltcClean)
  if drop then
    let k := (dropIndex x + n) % 2589408
    let d := k / 17982
    let r := k % 17982
    let l := k + 18 * d + (if 2 ≤ r then 2 * ((r - 2) / 1798) else 0)
    ltcPack ⟨l / 108000, l / 1800 % 60, l / 30 % 60, l % 30, x.df⟩
  else
    let k := (frameIndex x fps + n) % (86400 * fps)
    ltcPack ⟨k / (fps * 3600), k / (fps * 60) % 60, k / fps % 60, k % fps, x.df⟩

/-- `ceil_div(a, b)` (00_scope R8), on exact integers. -/
def ceilDiv (a b : Int) : Int := (a + b - 1) / b

/-- `frame_samples(SR1, fps_code)` (R134): the nominal LTC-frame duration in single-speed samples, rounded down. -/
def frameSamples (sr1 : Nat) (fpsCode : BitVec 2) : Nat :=
  let i := fpsOf fpsCode
  sr1 * 1000 / (i.fps * i.scale)

/-- `norm(x)` (R135): a frame quantity in single-speed frames, rounded down. -/
def norm (x sf : Nat) : Nat := x / sf

/-- `hms_of(t)` (R138): the time of day of a count of seconds, possibly negative. -/
def hmsOf (t : Int) : Nat × Nat × Nat :=
  let tod := (t % 86400).toNat
  (tod / 3600, tod / 60 % 60, tod % 60)

end Sys2Proof.Machine
end

