-- ==== Sys2Proof/Machine/Ops.lean ====
section
/-! DEFINITION. The named operations every meaning is made of: emitting events, register access (spec/20_memory.md
R40 to R45), sampling the clocks, and the two ways an operation ends, by a result or by raising an error
(spec/60_exceptions.md R230 to R235). -/

namespace Sys2Proof.Machine

/-- The outcome of one step of this machine. -/
abbrev StepOutcome := Host.Outcome State Fault Refusal

/-! ### Events and register writes -/

/-- `emit e` (00_scope R8). -/
def emit (e : Event) (s : State) : State := { s with events := s.events ++ [e] }

/-- `RegWrite(r, v)`, the same thing as `emit regwrite(r, v)` (20_memory R40). -/
def regWrite (r : WriteReg) (v : Word) (s : State) : State := emit (.regwrite r v) s

/-- The mask of every write to a TCO register (20_memory R45). -/
def tcoMask : Word := 0x7f7f7f7f#32

/-- `TcoWrite(r, v)` (20_memory R45). -/
def tcoWrite (r : WriteReg) (v : Word) (s : State) : State := regWrite r (v &&& tcoMask) s

/-- `TcoWrite(TCO_CTL, tco_ctl_word())`, on the state as it is (30_encoding R70). -/
def pushTcoCtl (s : State) : State := tcoWrite .tcoCtl (tcoCtlWord s.cfg s.rt) s

/-- `TcoWrite(TCO_CTL2, tco_ctl2_word())` (30_encoding R71). -/
def pushTcoCtl2 (s : State) : State := tcoWrite .tcoCtl2 (tcoCtl2Word s.cfg) s

/-! ### The bytes of a register access (20_memory R40, R42) -/

/-- Byte `i` of a word on the wire: the byte at `ADDR[r] + i` holds bits `8i+7 : 8i` (R42). -/
def wireByte (v : Word) (i : Nat) : Byte := v.extractLsb' (8 * i) 8

/-- `MemWrite(a, 4, v)` as the bytes it puts at each address, little-endian (00_scope R8). -/
def memWriteCells (a : Nat) (v : Word) : List Host.Cell :=
  (List.range 4).map fun i => (a + i, wireByte v i)

/-- The word that four bytes from the wire assemble to, the first from the lowest address (R42). -/
def assembleWord (b0 b1 b2 b3 : Byte) : Word := b3 ++ b2 ++ b1 ++ b0

/-- What an event puts on the bus: four bytes for a register write, nothing for any other event (R40). -/
def busCells (conf : Config) : Event → List Host.Cell
  | .regwrite r v => memWriteCells (conf.addr.ofWrite r) v
  | .notifyPcm _ | .notifyConfig | .notifyCtl _ | .notifyPull _ | .deferMidiDrain | .deferStatusRefresh
  | .warnOffset _ | .faultAssert => []

/-! ### Inputs: register reads and clocks (10_state R34, R35) -/

/-- The next queued answer, or the free value. -/
def nextOr {α : Type} (free : α) : List α → α
  | [] => free
  | a :: _ => a

/-- The count of free values after one input: it grows when the queue was empty. -/
def drawsAfter {α : Type} (queue : List α) (draws : Nat) : Nat :=
  match queue with
  | [] => draws + 1
  | _ :: _ => draws

/-- The value `RegRead(r)` returns now (20_memory R40: "answered by the environment"). -/
def readAnswer (r : ReadReg) (s : State) : Word :=
  match r with
  | .status => nextOr (Config.freeRead .status s.env.draws) s.env.status
  | .tcoLtcIn => nextOr (Config.freeRead .tcoLtcIn s.env.draws) s.env.ltcIn
  | .tcoStat => nextOr (Config.freeRead .tcoStat s.env.draws) s.env.tcoStat

/-- The inputs after `RegRead(r)`: its answer is used up. -/
def envAfterRead (r : ReadReg) (e : Env) : Env :=
  match r with
  | .status => { e with status := e.status.tail, draws := drawsAfter e.status e.draws }
  | .tcoLtcIn => { e with ltcIn := e.ltcIn.tail, draws := drawsAfter e.ltcIn e.draws }
  | .tcoStat => { e with tcoStat := e.tcoStat.tail, draws := drawsAfter e.tcoStat e.draws }

/-- The state after `RegRead(r)`: a read changes nothing of the block (20_memory R44). -/
def afterRead (r : ReadReg) (s : State) : State := { s with env := envAfterRead r s.env }

/-- The sample of `Env.now_ns` now. -/
def nowAnswer (s : State) : U64 := nextOr (Config.freeNow s.env.draws) s.env.now

/-- The state after sampling `Env.now_ns`. -/
def afterNow (s : State) : State :=
  { s with env := { s.env with now := s.env.now.tail, draws := drawsAfter s.env.now s.env.draws } }

/-- The sample of `Env.wall_sec` and `Env.wall_nsec` now, taken together (44_ltc_encoder R167). -/
def wallAnswer (s : State) : WallTime :=
  nextOr ⟨Config.freeWallSec s.env.draws, Config.freeWallNsec s.env.draws⟩ s.env.wall

/-- The state after sampling the wall clock. -/
def afterWall (s : State) : State :=
  { s with env := { s.env with wall := s.env.wall.tail, draws := drawsAfter s.env.wall s.env.draws } }

/-! ### How an operation ends -/

/-- `return (st, changed, val)` (00_scope R8): the result joins the results. -/
def answer (st : Status) (changed : Bool) (val : Value) (s : State) : StepOutcome :=
  .next { s with results := s.results ++ [⟨st, changed, val⟩] }

/-- TAKING AN EXCEPTION: `raise E` (00_scope R8). `s` is the state the operation began in: every rule raises before
its first write, so nothing is changed, no register is written, no event is emitted (60_exceptions R231, R235), and
the result is the error's status. -/
def raise (e : Status) (s : State) : StepOutcome := answer e false .none s

/-- The neutral no-op of class 2 (60_exceptions R233): no change, no register access, no event, and the zero of the
operation's value type. -/
def neutral (zero : Value) (s : State) : StepOutcome := answer .neutral false zero s

/-- A timecode operation finds the device down or without TCO module (60_exceptions R233). -/
def tcoUnavailable (s : State) : Bool := !s.devUp || !s.rt.tcoPresent

end Sys2Proof.Machine
end

