-- ==== Sys2Proof/Machine/LtcEncoder.lean ====
section
/-! DEFINITION. The LTC encoder (spec/44_ltc_encoder.md): the output requests, the steps `SCHEDULE` and `LATCH_CLEAR` of
`TCO.ELAPSED`, and `LTC.STOP`. -/

namespace Sys2Proof.Machine

/-! ### Output requests (R160 to R163) -/

/-- A request takes the one pending slot; it replaces a request still pending (R163). -/
def setPending (kind : PendKind) (code : Word) (target : U64) (s : State) : State :=
  { s with rt := { s.rt with pendKind := kind, pendCode := code, pendTarget := target } }

/-- The code is a valid time under the configured frame rate (R160). -/
def codeAccepted (c : Word) (s : State) : Bool :=
  let i := fpsOf s.cfg.fpsCode
  ltcValid c i.fps i.drop

/-- `LTC.START code, target` (R160). -/
def execLtcStart (code : Word) (target : U64) (s : State) : StepOutcome :=
  if tcoUnavailable s then neutral .none s
  else if codeAccepted code s = false then raise .inval s
  else answer .ok false .none (setPending .literal (code &&& ltcClean) target s)

/-- `LTC.START.NOW code` (R161). -/
def execLtcStartNow (code : Word) (s : State) : StepOutcome :=
  if tcoUnavailable s then neutral .none s
  else if codeAccepted code s = false then raise .inval s
  else answer .ok false .none (setPending .now (code &&& ltcClean) 0 s)

/-- `LTC.START.WALL seconds` (R162): every 64-bit offset is legal; the clock is read by `SCHEDULE`. -/
def execLtcStartWall (seconds : U64) (s : State) : StepOutcome :=
  if tcoUnavailable s then neutral .none s
  else answer .ok false .none (setPending .wall 0 seconds s)

/-! ### `SCHEDULE` (R165 to R176) -/

/-- `CALIB[f][m]` (00_scope R6); `none` where the table has no entry, an assertion (R182). -/
def calibAt (conf : Config) (fpsCode : BitVec 2) (mode : Nat) : Option Int :=
  match conf.calib[fpsCode.toNat]? with
  | some row => row[mode]?
  | none => none

/-- What a request is resolved to (R166, R167): the code, and its target in single-speed frames. -/
structure Target where
  code : Word
  start : Int
deriving DecidableEq, Repr

/-- The wall-clock variant (R167): the time of day at frame number 0, or 2 where drop-frame counting has no 0 and 1,
started at the beginning of the current wall-clock second. -/
def wallTarget (w : WallTime) (offset : U64) (fn : Int) (sr1 : Nat) (drop : Bool) : Target :=
  let hms := hmsOf (w.sec + offset.toInt)
  let f0 := if drop && hms.2.2 == 0 && hms.2.1 % 10 != 0 then 2 else 0
  { code := ltcPack ⟨hms.1, hms.2.1, hms.2.2, f0, false⟩
    start := fn - (w.nsec.val * sr1 / 1000000000 : Nat) }

/-- Resolving the variant (R165, R166). -/
def resolveTarget (s : State) (r : SysRate) (drop : Bool) (fn : Int) : Target :=
  match s.rt.pendKind with
  | .wall => wallTarget (wallAnswer s) s.rt.pendTarget fn r.sr1 drop
  | .now => ⟨s.rt.pendCode, fn⟩
  | .literal => ⟨s.rt.pendCode, (norm s.rt.pendTarget.toNat r.sf : Nat)⟩
  | .none => ⟨s.rt.pendCode, (norm s.rt.pendTarget.toNat r.sf : Nat)⟩

/-- The inputs after resolving: only a wall-clock request samples the wall clock (R167). -/
def afterResolve (s : State) : State := if s.rt.pendKind = .wall then afterWall s else s

/-- A scheduled code: what is written, where it starts, and the frame adjustment. -/
structure Plan where
  code : Word
  start : Int
  adjust : Int
deriving DecidableEq, Repr

/-- Step 3, the two-period floor (R168, R171, R172): an early target moves forward by whole LTC frames and its code
with it; a target more than a frame beyond the floor is kept and its distance recorded as a negative count. -/
def planFrom (t : Target) (floor fs : Int) (fps : Nat) (drop : Bool) : Plan :=
  if t.start < floor then
    let n := ceilDiv (floor - t.start) fs
    ⟨ltcAdd t.code n.toNat fps drop, t.start + n * fs, n⟩
  else if floor + fs < t.start then ⟨t.code, t.start, -((t.start - floor) / fs)⟩
  else ⟨t.code, t.start, 0⟩

/-- Step 5, the range check of the offset (R174): a warning and the sticky bit, nothing else. -/
def warnOffsetRange (off : Int) (s : State) : State :=
  if off < 0 ∨ 16383 < off then
    let s1 := emit (.warnOffset off) s
    { s1 with rt := { s1.rt with outWarn := true } }
  else s

/-- Step 6, the state written (R175, R176): bookkeeping, run flag, armed flag, and the emptied pending slot. -/
def armOutput (p : Plan) (off : Int) (drop : Bool) (s : State) : State :=
  { s with
    cfg := { s.cfg with run := true }
    rt := { s.rt with
      outCode := (p.code &&& ltcData) ||| flagAt drop 6
      outOffset := BitVec.ofInt 14 off
      outStart := BitVec.ofInt 64 p.start
      outAdjust := BitVec.ofInt 64 p.adjust
      outArmed := true
      pendKind := .none
      pendCode := 0
      pendTarget := 0 } }

/-- Step 6, the two register writes, code before control (R175). -/
def writeOutput (s : State) : State := pushTcoCtl (tcoWrite .tcoLtcOut s.rt.outCode s)

/-- The two-period floor, in single-speed frames (R168): `Fn + 2 * Pn`. -/
def twoPeriodFloor (s : State) (r : SysRate) : Int :=
  (norm s.fc.frameCount.toNat r.sf : Nat) + 2 * (norm s.fc.periodSize.toNat r.sf : Nat)

/-- The plan of a pending request (R165, steps 1 to 3). -/
def schedulePlan (s : State) (r : SysRate) : Plan :=
  let i := fpsOf s.cfg.fpsCode
  planFrom (resolveTarget s r i.drop (norm s.fc.frameCount.toNat r.sf : Nat)) (twoPeriodFloor s r)
    (frameSamples r.sr1 s.cfg.fpsCode) i.fps i.drop

/-- `SCHEDULE` once its inputs are there (R165, steps 4 to 6): `cal` is the calibration constant. -/
def scheduleWith (s : State) (r : SysRate) (cal : Int) : State :=
  let p := schedulePlan s r
  let off := p.start - twoPeriodFloor s r - cal
  writeOutput (armOutput p off (fpsOf s.cfg.fpsCode).drop (warnOffsetRange off (afterResolve s)))

/-- `SCHEDULE`, step (c) of `TCO.ELAPSED` (R165). An assertion abandons it before its first write: the event
`fault(ASSERT)`, the request left pending (43_ltc_decoder R148, R182). -/
def schedule (s : State) : State :=
  match sysRate s.conf s.hw.ctl with
  | none => emit .faultAssert s
  | some r =>
    match calibAt s.conf s.cfg.fpsCode r.mode with
    | none => emit .faultAssert s
    | some cal => scheduleWith s r cal

/-! ### `LATCH_CLEAR` and stopping (R177, R178) -/

/-- `LATCH_CLEAR`, step (a) of `TCO.ELAPSED` (R177). -/
def latchClear (s : State) : State :=
  if s.rt.outArmed then pushTcoCtl { s with rt := { s.rt with outArmed := false } } else s

/-- The pending request is cancelled (R178). -/
def clearPending (s : State) : State := setPending .none 0 0 s

/-- Run flag and set flag cleared, and one write of `TCO_CTL` (R178). -/
def stopOutput (s : State) : State :=
  pushTcoCtl { s with cfg := { s.cfg with run := false }, rt := { s.rt with outArmed := false } }

/-- `LTC.STOP` (R178). -/
def execLtcStop (s : State) : StepOutcome :=
  if tcoUnavailable s then neutral .none s
  else if s.cfg.run then answer .ok false .none (stopOutput (clearPending s))
  else answer .ok false .none (clearPending s)

end Sys2Proof.Machine
end

