-- ==== Sys2Proof/Machine/ConfigStatus.lean ====
section
/-! DEFINITION. The configuration setters, the status snapshot, and the two ends of the block's lifetime
(spec/46_config_status.md). -/

namespace Sys2Proof.Machine

/-! ### The setters (R200 to R209) -/

/-- The setter template (R200). `legalMax` is the largest legal value of the field (10_state R23: each legal set is
`0 .. legalMax`), `old` its value, `store` writes the new one, `push` writes the register that carries it, `id` is the
setter's opcode. The whole 64-bit slot is validated (30_encoding R81). -/
def cfgSetter (legalMax old : Nat) (store push : State → State) (id : BitVec 8) (v : U64) (s : State) : StepOutcome :=
  if tcoUnavailable s then neutral .none s
  else if legalMax < v.toNat then raise .inval s
  else if v.toNat = old then answer .ok false .none s
  else answer .ok true .none (emit (.notifyCtl id) (push (store s)))

/-- `CFG.SYNC v` (R201): 0 word clock, 1 video, 2 LTC. -/
def execCfgSync (v : U64) (s : State) : StepOutcome :=
  cfgSetter 2 s.cfg.syncSrc.toNat (fun s => { s with cfg := { s.cfg with syncSrc := v.setWidth 2 } }) pushTcoCtl
    0x50 v s

/-- `CFG.FPS v` (R202): the frame-rate code of 30_encoding R73. -/
def execCfgFps (v : U64) (s : State) : StepOutcome :=
  cfgSetter 3 s.cfg.fpsCode.toNat (fun s => { s with cfg := { s.cfg with fpsCode := v.setWidth 2 } }) pushTcoCtl
    0x51 v s

/-- `CFG.SRATE v` (R203): 0 44.1k, 1 48k, 2 follow application. -/
def execCfgSrate (v : U64) (s : State) : StepOutcome :=
  cfgSetter 2 s.cfg.srateMode.toNat (fun s => { s with cfg := { s.cfg with srateMode := v.setWidth 2 } }) pushTcoCtl
    0x52 v s

/-- `CFG.PULL v` (R204): 0 none, 1 +0.1%, 2 -0.1%, 3 +4%, 4 -4%. -/
def execCfgPull (v : U64) (s : State) : StepOutcome :=
  cfgSetter 4 s.cfg.pull.toNat (fun s => { s with cfg := { s.cfg with pull := v.setWidth 3 } }) pushTcoCtl 0x53 v s

/-- `CFG.WCK v` (R205): 0 1:1, 1 44.1k to 48k, 2 48k to 44.1k; carried by `TCO_CTL2`. -/
def execCfgWck (v : U64) (s : State) : StepOutcome :=
  cfgSetter 2 s.cfg.wckConv.toNat (fun s => { s with cfg := { s.cfg with wckConv := v.setWidth 2 } }) pushTcoCtl2
    0x54 v s

/-- `CFG.TERM v` (R206). -/
def execCfgTerm (v : U64) (s : State) : StepOutcome :=
  cfgSetter 1 s.cfg.term75.toNat (fun s => { s with cfg := { s.cfg with term75 := v != 0 } }) pushTcoCtl 0x55 v s

/-- `CFG.FLYWHEEL v` (R208). -/
def execCfgFlywheel (v : U64) (s : State) : StepOutcome :=
  cfgSetter 1 s.cfg.flywheel.toNat (fun s => { s with cfg := { s.cfg with flywheel := v != 0 } }) pushTcoCtl 0x57 v s

/-- `CFG.RUN v` (R207): clearing the run flag does all of `LTC.STOP`. -/
def execCfgRun (v : U64) (s : State) : StepOutcome :=
  if tcoUnavailable s then neutral .none s
  else if 1 < v.toNat then raise .inval s
  else if v = 0 then
    if s.cfg.run then answer .ok true .none (emit (.notifyCtl 0x56) (stopOutput (clearPending s)))
    else answer .ok false .none (clearPending s)
  else if s.cfg.run then answer .ok false .none s
  else answer .ok true .none (emit (.notifyCtl 0x56) (pushTcoCtl { s with cfg := { s.cfg with run := true } }))

/-! ### `TCO.STATUS` (R215) -/

/-- The snapshot record, each field copied from state (R215). -/
def snapshotOf (s : State) : Snapshot :=
  { tcoPresent := s.rt.tcoPresent
    ltcIn := s.rt.ltcIn
    ltcInTime := s.rt.ltcInTime
    ltcInFps := s.rt.ltcInFps
    ltcInValid := s.rt.ltcInValid
    ltcChanged := s.rt.ltcChanged
    pullFactor := s.rt.pullFactor
    ringCnt := BitVec.ofNat 32 s.rt.ringCnt
    syncSrc := s.cfg.syncSrc
    fpsCode := s.cfg.fpsCode
    srateMode := s.cfg.srateMode
    pull := s.cfg.pull
    wckConv := s.cfg.wckConv
    term75 := s.cfg.term75
    run := s.cfg.run
    flywheel := s.cfg.flywheel
    pendKind := s.rt.pendKind
    outArmed := s.rt.outArmed
    outWarn := s.rt.outWarn
    outCode := s.rt.outCode
    outOffset := s.rt.outOffset
    outStart := s.rt.outStart
    outAdjust := s.rt.outAdjust
    frameCount := s.fc.frameCount
    periodSize := s.fc.periodSize
    irqCount := s.sch.irqCount
    ctl := s.hw.ctl }

/-- `TCO.STATUS` (R215): it reads no register and writes no state. -/
def execTcoStatus (s : State) : StepOutcome :=
  if s.devUp = false then neutral (.snapshot Snapshot.zero) s
  else if s.rt.tcoPresent = false then neutral (.snapshot (snapshotOf s)) s
  else answer .ok false (.snapshot (snapshotOf s)) s

/-! ### `DEV.INIT` and `DEV.SHUTDOWN` (R220 to R223) -/

/-- Every field of `S` at its reset value (10_state R38) and the device up, with or without a TCO module. The
parameters, inputs and outputs are not fields of `S`. -/
def initDevice (tcoPresent : Bool) (s : State) : State :=
  { s with
    devUp := true
    hw := HwRegs.reset
    fc := FrameCounter.reset s.conf
    sch := Scheduler.reset
    cfg := TcoConfig.reset
    rt := { TcoRuntime.reset s.conf with tcoPresent := tcoPresent } }

/-- `DEV.INIT tco_present` (R220): accepted whether the device is up or down. -/
def execDevInit (tcoPresent : Bool) (s : State) : StepOutcome :=
  let s1 := initDevice tcoPresent s
  let s2 := regWrite .control s1.hw.ctl s1
  answer .ok false .none (if tcoPresent then pushTcoCtl2 (pushTcoCtl s2) else s2)

/-- The timecode part of a shutdown (R222): output stopped, TcoRuntime at its reset values, the stopped word pushed,
then the module gone. -/
def shutdownTco (s : State) : State :=
  if s.rt.tcoPresent then
    let s1 := pushTcoCtl
      { s with
        cfg := { s.cfg with run := false }
        rt := { TcoRuntime.reset s.conf with tcoPresent := true } }
    { s1 with rt := { s1.rt with tcoPresent := false } }
  else s

/-- The control word with the run flag and every interrupt enable off (R222). -/
def stoppedCtl (nMidi : Nat) (ctl : Word) : Word :=
  (List.range nMidi).foldl (fun w p => ctlSet w (.ieMidi p) 0) (ctlSet (ctlSet ctl .start 0) .ieAudio 0)

/-- `DEV.SHUTDOWN` (R222). -/
def execDevShutdown (s : State) : StepOutcome :=
  if s.devUp = false then neutral .none s
  else
    let s1 := shutdownTco s
    let ctl := stoppedCtl s1.conf.nMidi s1.hw.ctl
    let s2 := regWrite .control ctl { s1 with hw := { s1.hw with ctl := ctl } }
    answer .ok false .none
      { s2 with devUp := false, sch := { s2.sch with midiPending := Vector.replicate 4 false } }

end Sys2Proof.Machine
end

