-- ==== Sys2Proof/Machine/Flags.lean ====
section
/-! DEFINITION. The one-bit conditions and flags (spec/10_state.md R39): the interrupt conditions of the status word,
the flags of each MIDI port, and the output phase, which is computed from stored flags. No flag is a side effect of
arithmetic (R39). -/

namespace Sys2Proof.Machine

/-! ### The conditions of the status word (30_encoding R62, 41_interrupt_scheduler R111) -/

/-- `STATUS.IRQ_AUDIO` of a status word. -/
def statusAudio (conf : Config) (st : Word) : Bool := st.getLsbD conf.irqAudioBit

/-- `STATUS.IRQ_MIDI[p]` of a status word; a port that does not exist has none (R62). -/
def statusMidi (conf : Config) (st : Word) (p : Nat) : Bool :=
  decide (p < conf.nMidi) && st.getLsbD (conf.irqMidiBit + p)

/-- `any_midi` (41_interrupt_scheduler R111). -/
def anyMidi (conf : Config) (st : Word) : Bool := (List.range conf.nMidi).any (statusMidi conf st)

/-! ### The flags of a MIDI port (10_state R20) -/

/-- `S.sch.midi_pending[p]`. -/
def midiPendingAt (v : Vector Bool 4) (p : Nat) : Bool := v[p]?.getD false

/-- `S.sch.midi_pending[p] <- b`; there are four places. -/
def setMidiPending (v : Vector Bool 4) (p : Nat) (b : Bool) : Vector Bool 4 := v.setIfInBounds p b

/-! ### The output phase (10_state R30) -/

/-- The phases of the output state machine (44_ltc_encoder R179). -/
inductive OutPhase where
  | idle
  | armed
  | latched
  | running
deriving DecidableEq, Repr

/-- `out_phase` (10_state R30); `none` where it needs the speed factor and the rate code is a reserved one. -/
def outPhase (s : State) : Option OutPhase :=
  if s.cfg.run = false then some .idle
  else if s.rt.outArmed then some .armed
  else
    match sysRate s.conf s.hw.ctl with
    | none => none
    | some r => if s.fc.frameCount.toNat / r.sf < s.rt.outStart.toNat then some .latched else some .running

end Sys2Proof.Machine
end

