-- ==== Sys2Proof/Machine/FrameCounter.lean ====
section
/-! DEFINITION. The frame counter (spec/40_frame_counter.md): its pure functions, the micro-operation `FC.UPDATE`, and
`FC.SETLAT`, `FC.RESET`, `FC.READ`. -/

namespace Sys2Proof.Machine

/-- `period_size_from_latency(code, family)` (R90), for `code` in `0 .. 7`; `none` is the assertion on an unknown
family. -/
def periodSizeFromLatency (code : Nat) : Family → Option Word
  | .legacy => some (64#32 <<< code)
  | .new => some (if code = 7 then 32#32 else 64#32 <<< code)
  | .unrecognised => none

/-- `wrap_period(P, family)` (R91): fixed for the new family, "else `2 × period_size`". -/
def wrapPeriod (conf : Config) (p : Word) : Word :=
  if conf.family = .new then BitVec.ofNat 32 conf.wFixed else 2#32 * p

/-- `hw_pointer(status)` (R92): the raw field, shifted to frames, masked to the wrap period. -/
def hwPointer (conf : Config) (hwBufferSize status : Word) : Word :=
  let raw : Word := (status >>> conf.ptrLsb) &&& BitVec.ofNat 32 (2 ^ conf.ptrWidth - 1)
  (raw <<< conf.ptrShift) &&& (hwBufferSize - 1)

/-- `period_floor(p)` (R93). -/
def periodFloor (periodSize p : Word) : Word := p &&& ~~~(periodSize - 1)

/-- What `FC.UPDATE` makes of the counter when the pointer is `p` (R94). -/
def fcAdvance (fc : FrameCounter) (p : Word) : FrameCounter :=
  let wraps : U64 := if p.ult fc.lastHwPointer then fc.wrapCount + 1 else fc.wrapCount
  { fc with
    wrapCount := wraps
    lastHwPointer := p
    frameCount := wraps * fc.hwBufferSize.setWidth 64 + (periodFloor fc.periodSize p).setWidth 64 }

/-- `FC.UPDATE` (R94), on the status snapshot `S.hw.status`. -/
def fcUpdate (s : State) : State :=
  { s with fc := fcAdvance s.fc (hwPointer s.conf s.fc.hwBufferSize s.hw.status) }

/-- `FC.SETLAT code` (R98). -/
def execFcSetlat (code : U64) (s : State) : StepOutcome :=
  if s.devUp = false then neutral .none s
  else if 7 < code.toNat then raise .inval s
  else if code.toNat = ctlGet s.hw.ctl .lat then answer .ok false .none s
  else
    match periodSizeFromLatency code.toNat s.conf.family with
    | none => raise .assert s
    | some p =>
      let ctl := ctlSet s.hw.ctl .lat code.toNat
      let s1 : State :=
        { s with
          hw := { s.hw with ctl := ctl }
          fc := { s.fc with periodSize := p, hwBufferSize := wrapPeriod s.conf p } }
      answer .ok true .none (emit .notifyConfig (regWrite .control ctl s1))

/-- `FC.RESET` (R100). -/
def execFcReset (s : State) : StepOutcome :=
  if s.devUp = false then neutral .none s
  else answer .ok false .none { s with fc := { s.fc with wrapCount := 0, lastHwPointer := 0, frameCount := 0 } }

/-- `FC.READ` (R101): the count of the last `FC.UPDATE`; no register is read. -/
def execFcRead (s : State) : StepOutcome :=
  if s.devUp = false then neutral (.u64 0) s
  else answer .ok false (.u64 s.fc.frameCount) s

end Sys2Proof.Machine
end

