-- ==== Sys2Proof/Machine/Drift.lean ====
section
/-! DEFINITION. The drift estimator (spec/45_drift_estimator.md): `DRIFT.PUSH` and `PULL.UPDATE`. It has no command of
its own and touches no register. -/

namespace Sys2Proof.Machine

/-- The estimate of `PULL.UPDATE` (R190): `num / den` rounded half up, saturated to 32 bits. -/
def pullEstimate (ringCnt ringSum : Nat) (fpsCode : BitVec 2) : Nat :=
  let i := fpsOf fpsCode
  let num := 10 ^ 15 * ringCnt
  let den := ringSum * i.fps * i.scale
  min ((2 * num + den) / (2 * den)) (2 ^ 32 - 1)

/-- `PULL.UPDATE` (R190): no estimate from a zero sum; a notification only when the factor changes. -/
def pullUpdate (s : State) : State :=
  if s.rt.ringSum = 0 then s
  else
    let v : Word := BitVec.ofNat 32 (pullEstimate s.rt.ringCnt s.rt.ringSum.toNat s.cfg.fpsCode)
    if v = s.rt.pullFactor then s
    else emit (.notifyPull v) { s with rt := { s.rt with pullFactor := v } }

/-- One duration enters the ring (R187): when the ring is full the oldest leaves the sum, and its slot is reused. -/
def ringPush (driftN : Nat) (rt : TcoRuntime) (d : U64) : TcoRuntime :=
  let full : Bool := rt.ringCnt == driftN
  let kept : U64 := if full then rt.ringSum - rt.ring.getD rt.ringPos 0 else rt.ringSum
  { rt with
    ringCnt := if full then rt.ringCnt else rt.ringCnt + 1
    ring := rt.ring.set rt.ringPos d
    ringSum := kept + d
    ringPos := (rt.ringPos + 1) % driftN }

/-- `DRIFT.PUSH ts` (R187): the first stamp gives no duration (R188). -/
def driftPush (ts : U64) (s : State) : State :=
  if s.rt.lastMsgValid = false then { s with rt := { s.rt with lastMsgNs := ts, lastMsgValid := true } }
  else
    pullUpdate { s with rt := ringPush s.conf.driftN { s.rt with lastMsgNs := ts } (ts - s.rt.lastMsgNs) }

end Sys2Proof.Machine
end

