-- ==== Sys2Proof/Machine/LtcDecoder.lean ====
section
/-! DEFINITION. The LTC decoder (spec/43_ltc_decoder.md): `MTC.MSG`, the inbound decode step, and the period-elapsed
hook `TCO.ELAPSED`. -/

namespace Sys2Proof.Machine

/-- `MTC.MSG ts, len, bytes` (R145, R146): a well-formed message sets the changed flag, a qualifying one also feeds
the drift estimator; a malformed one is dropped. -/
def execMtcMsg (ts : U64) (len : BitVec 4) (bytes : BitVec 80) (s : State) : StepOutcome :=
  if tcoUnavailable s then neutral .none s
  else if msgClass len bytes = .malformed then answer .ok false .none s
  else
    let s1 : State := { s with rt := { s.rt with ltcChanged := true } }
    answer .ok false .none (if qualifies (msgClass len bytes) then driftPush ts s1 else s1)

/-- The inbound frame rate of `TCO_STAT.IN_FPS` (R150, R151): the reserved value reads as 30. -/
def inboundFps (inFps : BitVec 2) : Nat :=
  match inFps.toNat with
  | 0 => 24
  | 1 => 25
  | _ => 30

/-- The frame-rate code published with an inbound code (R150). -/
def inboundFpsCode (fps : Nat) (drop : Bool) : BitVec 2 :=
  if fps = 24 then 0 else if fps = 25 then 1 else if drop then 2 else 3

/-- What `INBOUND_DECODE` publishes from the two words read (R150). -/
def publishInbound (ltcIn tcoStat : Word) (sf : Nat) (s : State) : State :=
  let w := ltcIn &&& ltcClean
  let t := decodeTcoStat tcoStat
  let fps := inboundFps t.inFps
  let drop := fps == 30 && w.getLsbD 6
  { s with rt := { s.rt with
      ltcIn := ltcInc w fps drop
      ltcInTime := s.fc.frameCount - BitVec.ofNat 64 (norm t.offset.toNat sf)
      ltcInValid := t.ltcValid
      ltcInFps := inboundFpsCode fps drop
      ltcChanged := false } }

/-- `INBOUND_DECODE`, step (b) of `TCO.ELAPSED` (R150): `TCO_LTC_IN` is read first, then `TCO_STAT`. A reserved rate
code abandons the step, with neither register read (60_exceptions R235, 95_test_vectors V-EN-8; assumption 9). -/
def inboundDecode (s : State) : State :=
  match sysRate s.conf s.hw.ctl with
  | none => emit .faultAssert s
  | some r =>
    let s1 := afterRead .tcoLtcIn s
    let s2 := afterRead .tcoStat s1
    publishInbound (readAnswer .tcoLtcIn s) (readAnswer .tcoStat s1) r.sf s2

/-- Step (b) of `TCO.ELAPSED`, if something new was observed (R148). -/
def inboundStep (s : State) : State := if s.rt.ltcChanged then inboundDecode s else s

/-- Step (c) of `TCO.ELAPSED`, if a request is pending (R148). -/
def outboundStep (s : State) : State := if s.rt.pendKind = .none then s else schedule s

/-- `TCO.ELAPSED` (R148): clear, then decode, then schedule; nothing without a TCO module (R155). -/
def tcoElapsed (s : State) : State :=
  if s.rt.tcoPresent = false then s else outboundStep (inboundStep (latchClear s))

end Sys2Proof.Machine
end

