-- ==== Sys2Proof/Machine/Scheduler.lean ====
section
/-! DEFINITION. The interrupt scheduler (spec/41_interrupt_scheduler.md): `IRQ`, and the commands `MIDI.DONE`,
`POLL.SET`, `CTL.UPDATE`, `PCM.ATTACH`. -/

namespace Sys2Proof.Machine

/-! ### `IRQ` (R110 to R119) -/

/-- `HANDLED` (60_exceptions R230). -/
def handled : Value := .u64 1

/-- `NOT_HANDLED` (60_exceptions R230). -/
def notHandled : Value := .u64 0

/-- Step 1, the status snapshot (R111): one read of `STATUS`. -/
def takeSnapshot (s : State) : State :=
  let s1 := afterRead .status s
  { s1 with hw := { s1.hw with status := readAnswer .status s } }

/-- The acknowledge and the interrupt counter (R114). -/
def acknowledge (s : State) : State :=
  let s1 := regWrite .irqAck 0 s
  { s1 with sch := { s1.sch with irqCount := s1.sch.irqCount + 1 } }

/-- The period notifications, capture before playback (R114). -/
def notifyConsumers (s : State) : State :=
  let s1 := if s.sch.capPresent then emit (.notifyPcm .capture) s else s
  if s1.sch.pbPresent then emit (.notifyPcm .playback) s1 else s1

/-- The polling threshold is met at the time `now` (R115). -/
def pollDue (conf : Config) (sch : Scheduler) (now : U64) : Bool :=
  decide (0 < sch.pollRate.toNat) && decide (conf.pollUnitNs / sch.pollRate.toNat ≤ (now - sch.lastPollNs).toNat)

/-- Status polling (R115). -/
def pollStep (s : State) : State :=
  let now := nowAnswer s
  let s1 := afterNow s
  if pollDue s1.conf s1.sch now then
    emit .deferStatusRefresh { s1 with sch := { s1.sch with lastPollNs := now } }
  else s1

/-- Step 3, audio (R114, R115): acknowledge, count, frame counter, timecode hook, consumers, polling. -/
def audioStep (s : State) : State := pollStep (notifyConsumers (tcoElapsed (fcUpdate (acknowledge s))))

/-- One port of step 4 (R112): its enable off, itself pending, if it has data. -/
def midiMark (s : State) (p : Nat) : State :=
  if statusMidi s.conf s.hw.status p then
    { s with
      hw := { s.hw with ctl := ctlSet s.hw.ctl (.ieMidi p) 0 }
      sch := { s.sch with midiPending := setMidiPending s.sch.midiPending p true } }
  else s

/-- Step 4, MIDI (R116): every port with data in ascending order, then one write of `CONTROL` and one hand-off. -/
def midiStep (s : State) : State :=
  let s1 := (List.range s.conf.nMidi).foldl midiMark s
  emit .deferMidiDrain (regWrite .control s1.hw.ctl s1)

/-- Steps 3 and 4 on the snapshot in `S.hw.status`. -/
def serviceIrq (s : State) : State :=
  let s1 := if statusAudio s.conf s.hw.status then audioStep s else s
  if anyMidi s1.conf s1.hw.status then midiStep s1 else s1

/-- `IRQ` (R112). -/
def execIrq (s : State) : StepOutcome :=
  if s.devUp = false then neutral notHandled s
  else
    let s1 := takeSnapshot s
    if statusAudio s1.conf s1.hw.status || anyMidi s1.conf s1.hw.status then
      answer .ok false handled (serviceIrq s1)
    else answer .ok false notHandled s1

/-! ### Commands of collaborators and of the user (R120 to R123) -/

/-- `MIDI.DONE port` (R120). -/
def execMidiDone (port : BitVec 2) (s : State) : StepOutcome :=
  if s.devUp = false then neutral .none s
  else if s.conf.nMidi ≤ port.toNat then raise .inval s
  else if midiPendingAt s.sch.midiPending port.toNat = false then answer .ok false .none s
  else
    let ctl := ctlSet s.hw.ctl (.ieMidi port.toNat) 1
    let s1 : State :=
      { s with
        hw := { s.hw with ctl := ctl }
        sch := { s.sch with midiPending := setMidiPending s.sch.midiPending port.toNat false } }
    answer .ok true .none (regWrite .control ctl s1)

/-- `POLL.SET rate` (R121). -/
def execPollSet (rate : Word) (s : State) : StepOutcome :=
  if s.devUp = false then neutral .none s
  else if rate = s.sch.pollRate then answer .ok false .none s
  else answer .ok true .none (emit (.notifyCtl 0x12) { s with sch := { s.sch with pollRate := rate } })

/-- The mask touches the enable of a port that is marked pending (R122, 70_reset R277). -/
def touchesDraining (s : State) (mask : Word) : Bool :=
  (List.range s.conf.nMidi).any fun p => mask.getLsbD (22 + p) && midiPendingAt s.sch.midiPending p

/-- `CTL.UPDATE mask, value` (R122). -/
def execCtlUpdate (mask value : Word) (s : State) : StepOutcome :=
  if s.devUp = false then neutral .none s
  else if mask &&& 0x0000000e#32 ≠ 0 then raise .inval s
  else if touchesDraining s mask then raise .inval s
  else
    let new := (s.hw.ctl &&& ~~~mask) ||| (value &&& mask)
    if rateValid (rateCode new) = false then raise .inval s
    else if new = s.hw.ctl then answer .ok false .none s
    else answer .ok true .none (regWrite .control new { s with hw := { s.hw with ctl := new } })

/-- `PCM.ATTACH direction, present` (R123). -/
def execPcmAttach (direction : Direction) (present : Bool) (s : State) : StepOutcome :=
  if s.devUp = false then neutral .none s
  else
    match direction with
    | .capture =>
      answer .ok (s.sch.capPresent != present) .none { s with sch := { s.sch with capPresent := present } }
    | .playback =>
      answer .ok (s.sch.pbPresent != present) .none { s with sch := { s.sch with pbPresent := present } }

end Sys2Proof.Machine
end

