-- ==== Sys2Proof/Machine/Dispatch.lean ====
section
/-! DEFINITION. `exec`: the meaning of each operation of the opcode map (spec/30_encoding.md R82), one arm for each. -/

namespace Sys2Proof.Machine

def exec (i : Instr) (s : State) : Host.Outcome State Fault Refusal :=
  match i with
  | .devInit t => Sys2Proof.Machine.execDevInit t s
  | .devShutdown => Sys2Proof.Machine.execDevShutdown s
  | .irq => Sys2Proof.Machine.execIrq s
  | .midiDone p => Sys2Proof.Machine.execMidiDone p s
  | .pollSet r => Sys2Proof.Machine.execPollSet r s
  | .pcmAttach d v => Sys2Proof.Machine.execPcmAttach d v s
  | .ctlUpdate m v => Sys2Proof.Machine.execCtlUpdate m v s
  | .fcSetlat c => Sys2Proof.Machine.execFcSetlat c s
  | .fcReset => Sys2Proof.Machine.execFcReset s
  | .fcRead => Sys2Proof.Machine.execFcRead s
  | .mtcMsg ts len b => Sys2Proof.Machine.execMtcMsg ts len b s
  | .ltcStart c t => Sys2Proof.Machine.execLtcStart c t s
  | .ltcStartNow c => Sys2Proof.Machine.execLtcStartNow c s
  | .ltcStartWall o => Sys2Proof.Machine.execLtcStartWall o s
  | .ltcStop => Sys2Proof.Machine.execLtcStop s
  | .cfgSync v => Sys2Proof.Machine.execCfgSync v s
  | .cfgFps v => Sys2Proof.Machine.execCfgFps v s
  | .cfgSrate v => Sys2Proof.Machine.execCfgSrate v s
  | .cfgPull v => Sys2Proof.Machine.execCfgPull v s
  | .cfgWck v => Sys2Proof.Machine.execCfgWck v s
  | .cfgTerm v => Sys2Proof.Machine.execCfgTerm v s
  | .cfgRun v => Sys2Proof.Machine.execCfgRun v s
  | .cfgFlywheel v => Sys2Proof.Machine.execCfgFlywheel v s
  | .tcoStatus => Sys2Proof.Machine.execTcoStatus s

end Sys2Proof.Machine
end

