-- ==== Sys2Proof/Machine/Step.lean ====
section
/-! DEFINITION. One step: the next command of the port, executed to completion (spec/20_memory.md R47, R54). -/

namespace Sys2Proof.Machine

/-- One step. An instance with an ill-formed configuration is refused (00_scope R7). With no command presented nothing
is executed (70_reset R260). Otherwise the first command is taken; an illegal word raises `E_INVAL` whatever the state
(30_encoding R83, 60_exceptions R232), a legal one is executed. -/
def step (s : State) : Host.Outcome State Fault Refusal :=
  if s.conf.ok = false then .refused .illFormedConfiguration
  else
    match s.port with
    | [] => .next s
    | cw :: rest =>
      match decode cw with
      | .error _ => raise .inval { s with port := rest }
      | .ok i => exec i { s with port := rest }

/-- `s` with one more command presented, in front of those waiting: the next step executes it (assumption 2). -/
def State.withFetchWord (s : State) (nbits w : Nat) : State :=
  { s with port := BitVec.ofNat 224 (w % 2 ^ nbits) :: s.port }

end Sys2Proof.Machine
end

