-- ==== Sys2Proof/Safety.lean ====
section
/-! DEFINITION. The terms that claims about the machine are stated in: the invariant of a run, which operation may write
which register, what the last write to a register was, and which context issues which operation. Nothing here is used by
the machine. -/

namespace Sys2Proof.Machine

/-! ### Results -/

/-- `s` with one more result. -/
def State.answered (s : State) (st : Status) (changed : Bool) (val : Value) : State :=
  { s with results := s.results ++ [⟨st, changed, val⟩] }

/-- The value a neutral no-op answers: the zero of the operation's value type (60_exceptions R233). -/
def zeroValue : Instr → Value
  | .irq => .u64 0
  | .fcRead => .u64 0
  | .tcoStatus => .snapshot Snapshot.zero
  | .devInit _ | .devShutdown | .midiDone _ | .pollSet _ | .pcmAttach _ _ | .ctlUpdate _ _ | .fcSetlat _ | .fcReset
  | .mtcMsg _ _ _ | .ltcStart _ _ | .ltcStartNow _ | .ltcStartWall _ | .ltcStop | .cfgSync _ | .cfgFps _
  | .cfgSrate _ | .cfgPull _ | .cfgWck _ | .cfgTerm _ | .cfgRun _ | .cfgFlywheel _ => .none

/-- The operations that need the TCO module (60_exceptions R233, cause (b)), `TCO.STATUS` apart. -/
def needsTco : Instr → Bool
  | .mtcMsg _ _ _ | .ltcStart _ _ | .ltcStartNow _ | .ltcStartWall _ | .ltcStop | .cfgSync _ | .cfgFps _
  | .cfgSrate _ | .cfgPull _ | .cfgWck _ | .cfgTerm _ | .cfgRun _ | .cfgFlywheel _ => true
  | .devInit _ | .devShutdown | .irq | .midiDone _ | .pollSet _ | .pcmAttach _ _ | .ctlUpdate _ _ | .fcSetlat _
  | .fcReset | .fcRead | .tcoStatus => false

/-- The operations that 60_exceptions R231 says may raise `E_INVAL` on a legal command word. -/
def mayInval : Instr → Bool
  | .fcSetlat _ | .midiDone _ | .ctlUpdate _ _ | .ltcStart _ _ | .ltcStartNow _ | .cfgSync _ | .cfgFps _
  | .cfgSrate _ | .cfgPull _ | .cfgWck _ | .cfgTerm _ | .cfgRun _ | .cfgFlywheel _ => true
  | .devInit _ | .devShutdown | .irq | .pollSet _ | .pcmAttach _ _ | .fcReset | .fcRead | .mtcMsg _ _ _
  | .ltcStartWall _ | .ltcStop | .tcoStatus => false

/-! ### Register writes -/

/-- The registers of the TCO module (20_memory R45). -/
def isTcoReg : WriteReg → Bool
  | .tcoLtcOut | .tcoCtl | .tcoCtl2 => true
  | .control | .irqAck => false

/-- The column "accessed by" of the register table (20_memory R41): which operation writes which register. -/
def mayWrite (i : Instr) : WriteReg → Bool
  | .control =>
    match i with
    | .fcSetlat _ | .irq | .midiDone _ | .ctlUpdate _ _ | .devInit _ | .devShutdown => true
    | _ => false
  | .irqAck => i == .irq
  | .tcoLtcOut => i == .irq
  | .tcoCtl =>
    match i with
    | .irq | .ltcStop | .cfgSync _ | .cfgFps _ | .cfgSrate _ | .cfgPull _ | .cfgTerm _ | .cfgRun _ | .cfgFlywheel _
    | .devInit _ | .devShutdown => true
    | _ => false
  | .tcoCtl2 =>
    match i with
    | .cfgWck _ | .devInit _ => true
    | _ => false

/-- An event as a write to `r`. -/
def writeTo (r : WriteReg) : Event → Option Word
  | .regwrite r' v => if r' = r then some v else none
  | .notifyPcm _ | .notifyConfig | .notifyCtl _ | .notifyPull _ | .deferMidiDrain | .deferStatusRefresh
  | .warnOffset _ | .faultAssert => none

/-- The last value written to `r` in a list of events, if any. -/
def lastWrite (r : WriteReg) (es : List Event) : Option Word := (es.filterMap (writeTo r)).getLast?

/-- An event that the timecode hook may emit (43_ltc_decoder R148): a write to `TCO_LTC_OUT` or `TCO_CTL`, the range
warning, an assertion. -/
def isHookEvent : Event → Bool
  | .regwrite .tcoLtcOut _ | .regwrite .tcoCtl _ | .warnOffset _ | .faultAssert => true
  | .regwrite .control _ | .regwrite .irqAck _ | .regwrite .tcoCtl2 _ | .notifyPcm _ | .notifyConfig | .notifyCtl _
  | .notifyPull _ | .deferMidiDrain | .deferStatusRefresh => false

/-- The setter template (46_config_status R200) for one field: `i v` is the command, `max` the largest legal value,
`old` the value the field has, `store` the configuration with the field at `v`, `word` what register `reg` then
carries, `id` the opcode of the setter. -/
def SetterBehaves (i : U64 → Instr) (max : Nat) (old : TcoConfig → Nat) (store : U64 → TcoConfig → TcoConfig)
    (reg : WriteReg) (word : TcoConfig → TcoRuntime → Word) (id : BitVec 8) : Prop :=
  ∀ (v : U64) (s : State),
    ((s.devUp = false ∨ s.rt.tcoPresent = false) → exec (i v) s = .next (s.answered .neutral false .none)) ∧
    (s.devUp = true → s.rt.tcoPresent = true →
      (max < v.toNat → exec (i v) s = .next (s.answered .inval false .none)) ∧
      (v.toNat = old s.cfg → v.toNat ≤ max → exec (i v) s = .next (s.answered .ok false .none)) ∧
      (v.toNat ≠ old s.cfg → v.toNat ≤ max →
        old (store v s.cfg) = v.toNat ∧
        exec (i v) s = .next { s with
          cfg := store v s.cfg
          events := s.events ++ [.regwrite reg (word (store v s.cfg) s.rt), .notifyCtl id]
          results := s.results ++ [⟨.ok, true, .none⟩] }))

/-! ### Parameters -/

/-- The constraints that 00_scope R7 lists, in its order. -/
def MeetsR7 (c : Config) : Prop :=
  (∃ k, c.wFixed = 2 ^ k) ∧ 2 * 32 ≤ c.wFixed ∧ c.ptrWidth = 16 ∧ c.ptrShift ≤ 15 ∧ (1 ≤ c.nMidi ∧ c.nMidi ≤ 4) ∧
    1 ≤ c.driftN ∧ ∀ row ∈ c.calib, ∀ x ∈ row, x.natAbs < 2 ^ 31

/-- A bit of the status word that the pointer field does not hold (30_encoding R62). -/
def OutsidePointer (c : Config) (b : Nat) : Prop := b < 32 ∧ (b < c.ptrLsb ∨ c.ptrLsb + c.ptrWidth ≤ b)

/-- What R7 leaves unsaid and the model asks as well: `FAMILY` (00_scope R6; log 8) and the shape of `CALIB` (R6);
`W_FIXED` a `u32` and `WC_BITS` (10_state R15, R17; log 7); the pointer field inside the word, the flags clear of it and of each other
(30_encoding R62; log 6); the range of `RATE` (R134, R135, R170, R183; log 5); the addresses (20_memory R57). -/
def MeetsModelConstraints (c : Config) : Prop :=
  c.family ≠ .unrecognised ∧ (c.calib.length = 4 ∧ ∀ row ∈ c.calib, row.length = 3) ∧
    (c.wFixed < 2 ^ 32 ∧ c.wcBits = 64) ∧
    (c.ptrLsb + c.ptrWidth ≤ 32 ∧ OutsidePointer c c.irqAudioBit ∧
      ∀ p, p < c.nMidi → OutsidePointer c (c.irqMidiBit + p) ∧ c.irqMidiBit + p ≠ c.irqAudioBit) ∧
    (c.rates.length = 16 ∧ ∀ k, k < 16 → k % 4 ≠ 3 → k / 4 ≠ 3 → ∃ e, c.rates[k]? = some (some e) ∧
      (e.sf = 1 ∨ e.sf = 2 ∨ e.sf = 4) ∧ 32000 ≤ e.sr1 ∧ e.sr1 ≤ 48000) ∧
    (∀ a ∈ c.addr.all, a % 4 = 0) ∧ c.addr.all.Nodup

/-- What `sys_rate()` is for the control word `ctl` (30_encoding R61, R63): the code is bits 9:6; neither half of it is
the reserved 3; base rate and speed factor are its entry of `RATE`; the mode is its upper half. -/
def RateIs (conf : Config) (ctl : Word) (r : SysRate) : Prop :=
  let code := ctl.toNat / 64 % 16
  code % 4 ≠ 3 ∧ code / 4 ≠ 3 ∧ conf.rates[code]? = some (some ⟨r.sr1, r.sf⟩) ∧ r.mode = code / 4

/-- `CALIB[f][m]` is `cal` (00_scope R6): the row of the frame-rate code, in it the column of the speed mode. -/
def CalibIs (conf : Config) (fpsCode : BitVec 2) (mode : Nat) (cal : Int) : Prop :=
  ∃ row, conf.calib[fpsCode.toNat]? = some row ∧ row[mode]? = some cal

/-! ### The invariant of a run -/

/-- The sizes follow the latency code and the family (10_state R14, R15). -/
def SizesFollowLatency (s : State) : Prop :=
  periodSizeFromLatency (ctlGet s.hw.ctl .lat) s.conf.family = some s.fc.periodSize ∧
    s.fc.hwBufferSize = wrapPeriod s.conf s.fc.periodSize

/-- While a port is pending its interrupt enable is 0, and only a port that exists is pending (10_state R20). -/
def DrainingMasked (s : State) : Prop :=
  ∀ p, midiPendingAt s.sch.midiPending p = true → p < s.conf.nMidi ∧ ctlGet s.hw.ctl (.ieMidi p) = 0

/-- "A value outside the legal column is never stored" (10_state R23). -/
def ConfigLegal (c : TcoConfig) : Prop :=
  c.syncSrc.toNat ≤ 2 ∧ c.srateMode.toNat ≤ 2 ∧ c.pull.toNat ≤ 4 ∧ c.wckConv.toNat ≤ 2

/-- The drift ring (10_state R31, R187): its length and indices, and the running sum is the sum of the valid slots,
modulo 2^64; while the ring is not full the valid slots are those below `ring_pos`. -/
def RingSound (driftN : Nat) (rt : TcoRuntime) : Prop :=
  rt.ring.length = driftN ∧ rt.ringPos < driftN ∧ rt.ringCnt ≤ driftN ∧
    (rt.ringCnt < driftN → rt.ringPos = rt.ringCnt) ∧ rt.ringSum = (rt.ring.take rt.ringCnt).sum

/-- Stored time codes have sync and reserved bits zero (10_state R25, 44_ltc_encoder R160, R175). -/
def CodesClean (rt : TcoRuntime) : Prop :=
  rt.ltcIn &&& ~~~ltcClean = 0 ∧ rt.pendCode &&& ~~~ltcClean = 0 ∧ rt.outCode &&& ~~~ltcClean = 0

/-- The unused parts of the pending slot are zero (44_ltc_encoder R161, R162, R165, R178). -/
def PendingTidy (rt : TcoRuntime) : Prop :=
  (rt.pendKind = .none → rt.pendCode = 0 ∧ rt.pendTarget = 0) ∧ (rt.pendKind = .now → rt.pendTarget = 0) ∧
    (rt.pendKind = .wall → rt.pendCode = 0)

/-- What the block wrote last to a register is what its state says: `CONTROL` is the cached control word (10_state R12),
and with a TCO module `TCO_CTL` and `TCO_CTL2` carry the whole current state (10_state R28, 46_config_status R200). -/
def RegistersMirrorState (s : State) : Prop :=
  (∀ v, lastWrite .control s.events = some v → v = s.hw.ctl) ∧
    (s.devUp = true → lastWrite .control s.events = some s.hw.ctl) ∧
    (s.rt.tcoPresent = true →
      lastWrite .tcoCtl s.events = some (tcoCtlWord s.cfg s.rt) ∧
      lastWrite .tcoCtl2 s.events = some (tcoCtl2Word s.cfg))

/-- The invariant of a run: what holds after power-on and after every step. -/
structure Inv (s : State) : Prop where
  /-- the configuration meets 00_scope R7 -/
  confOk : s.conf.ok = true
  /-- 10_state R14, R15 -/
  sizes : SizesFollowLatency s
  /-- `S.hw.ctl` "always holds a valid" sample-rate code (30_encoding R63) -/
  rate : rateValid (rateCode s.hw.ctl) = true
  /-- 10_state R20 -/
  draining : DrainingMasked s
  /-- 10_state R23 -/
  legal : ConfigLegal s.cfg
  /-- a device that is down has no module and drains no port (46_config_status R222, 70_reset R260) -/
  down : s.devUp = false → s.rt.tcoPresent = false ∧ ∀ p, midiPendingAt s.sch.midiPending p = false
  /-- without a module the TcoRuntime fields hold their reset values (10_state R24) -/
  absent : s.rt.tcoPresent = false → s.rt = TcoRuntime.reset s.conf
  /-- on a device that is up without a module no operation has set a configuration field (46_config_status R215, R220) -/
  unset : s.devUp = true → s.rt.tcoPresent = false → s.cfg = TcoConfig.reset
  /-- armed output is running output (44_ltc_encoder R179) -/
  armedRuns : s.rt.outArmed = true → s.cfg.run = true
  /-- 10_state R31 -/
  ring : RingSound s.conf.driftN s.rt
  /-- 10_state R25 -/
  clean : CodesClean s.rt
  /-- 44_ltc_encoder R161, R162 -/
  pending : PendingTidy s.rt
  /-- `frame_count` is a multiple of 32 (42_ltc_arith R135) -/
  granular : s.fc.frameCount.toNat % 32 = 0
  /-- 10_state R12, R28 -/
  mirror : RegistersMirrorState s

/-! ### Contexts (60_exceptions R245) -/

/-- The kinds of execution context that present commands. The block does not know which one did and checks nothing. -/
inductive Context where
  /-- (a) interrupt -/
  | interrupt
  /-- (b) deferred, high priority: MIDI draining -/
  | deferredMidi
  /-- (b) deferred, regular priority: status refresh -/
  | deferredStatus
  /-- (c) user request -/
  | user
deriving DecidableEq, Repr

/-- Which context issues which operation (60_exceptions R245). -/
def issues : Context → Instr → Bool
  | .interrupt, i => i == .irq
  | .deferredMidi, i =>
    match i with
    | .midiDone _ | .mtcMsg _ _ _ => true
    | _ => false
  | .deferredStatus, i => i == .tcoStatus || i == .fcRead
  | .user, i =>
    match i with
    | .irq | .midiDone _ | .mtcMsg _ _ _ => false
    | _ => true

end Sys2Proof.Machine
end

