-- ==== Sys2Proof/Certificates/Slice0/Obligations.lean ====
section
/-! DEFINITION. The statements about the machine, for the provers. Each docstring says which rule of the spec a statement
formalises. A statement about `exec` or `step` is about every state it does not restrict; the block keeps no memory
array (spec/20_memory.md R40), so a frame is said by naming every field of the next state that differs. -/

open Sys2Proof Sys2Proof.Machine

/-! ### Command words -/

/-- Every operation with every operand survives encoding (R80 to R82). -/
def Obligations.DecodeEncodeRoundTrip : Prop := ∀ i : Instr, decode (encode i) = .ok i

/-- No two command words stand for one operation: a word that decodes is the encoding of what it decodes to (R80 to
R83). -/
def Obligations.EncodeDecodeRoundTrip : Prop := ∀ (cw : CommandWord) (i : Instr), decode cw = .ok i → encode i = cw

/-- The decoder accepts exactly the words that fit a row of the opcode map (R81 to R83). -/
def Obligations.DecodesExactlyTheOpcodeMap : Prop :=
  ∀ cw : CommandWord, (∃ i, decode cw = .ok i) ↔ legalWord cw = true

/-- "An illegal command raises `E_INVAL`": nothing changes but that the command is taken and answered, whether the
device is up or down (R83, R232). -/
def Obligations.IllegalWordRaisesEInval : Prop :=
  ∀ (s : State) (cw : CommandWord) (rest : List CommandWord),
    s.conf.ok = true → s.port = cw :: rest → legalWord cw = false →
      step s = .next { s with port := rest, results := s.results ++ [⟨.inval, false, .none⟩] }

/-- A step runs the decoded instruction: `exec` on the state with the command taken from the port. -/
def Obligations.StepRunsDecoded : Prop :=
  ∀ (s : State) (cw : CommandWord) (rest : List CommandWord) (i : Instr),
    s.conf.ok = true → s.port = cw :: rest → decode cw = .ok i → step s = exec i { s with port := rest }

/-- What a step does when it executes nothing: the model's choices. With no command presented "the block executes nothing"
(R260); that this is a step which changes nothing is log 2. An instance "the model refuses" (R7) is refused by name at
each step, log 3. What is refused is more than R7 lists: `MeetsModelConstraints` adds `FAMILY` (R6, log 8), the shape of
`CALIB` (R6), the addresses (R57), and what logs 5 (range of `RATE`), 6 (places of the flags) and 7 (`W_FIXED` below 2^32,
`WC_BITS`) deduce. The first clause spells `Config.ok` out. -/
def Obligations.StepIdlesAndRefuses : Prop :=
  (∀ c : Config, c.ok = true ↔ MeetsR7 c ∧ MeetsModelConstraints c) ∧
  ∀ s : State,
    (¬MeetsR7 s.conf → step s = .refused .illFormedConfiguration) ∧
    (¬MeetsModelConstraints s.conf → step s = .refused .illFormedConfiguration) ∧
    (MeetsR7 s.conf → MeetsModelConstraints s.conf → s.port = [] → step s = .next s)

/-- Words of spec/95_test_vectors.md part 3 and V-ENC-5, written out from R80, decode to what they stand for. -/
def Obligations.SampleWordsDecode : Prop :=
  decode 0x10#224 = .ok .irq ∧
  decode (0x01#224 ||| (1#224 <<< 16)) = .ok (.devInit true) ∧
  decode (0x13#224 ||| (1#224 <<< 16) ||| (1#224 <<< 80)) = .ok (.pcmAttach .playback true) ∧
  decode (0x14#224 ||| (0x3e1#224 <<< 16) ||| (0xa1#224 <<< 80)) = .ok (.ctlUpdate 0x3e1 0xa1) ∧
  decode (0x42#224 ||| (0xffffffffffffb9b0#224 <<< 16)) = .ok (.ltcStartWall (BitVec.ofInt 64 (-18000))) ∧
  decode 0x110#224 = .error .reservedNonzero

/-! ### Register words and formats -/

/-- `pack14` and `unpack14` as numbers, and the round trip (R72). -/
def Obligations.OffsetPackingRoundTrip : Prop :=
  (∀ v : BitVec 14, (pack14 v).toNat = v.toNat % 128 + 256 * (v.toNat / 128)) ∧
  (∀ w : Word, (unpack14 w).toNat = 128 * (w.toNat / 256 % 128) + w.toNat % 128) ∧
  (∀ v : BitVec 14, unpack14 (pack14 v) = v)

/-- Packing the fields of a code gives the clean code back when its units digits are decimal; fields in the range of
their digits survive packing; what is packed has no sync or reserved bit (R67). -/
def Obligations.LtcPackFieldsRoundTrip : Prop :=
  (∀ c : Word, c.toNat % 16 ≤ 9 → c.toNat / 256 % 16 ≤ 9 → c.toNat / 65536 % 16 ≤ 9 → c.toNat / 16777216 % 16 ≤ 9 →
    ltcPack (ltcFields c) = c &&& ltcClean) ∧
  (∀ x : LtcFields, x.h < 40 → x.m < 80 → x.s < 80 → x.f < 40 → ltcFields (ltcPack x) = x) ∧
  (∀ x : LtcFields, ltcPack x &&& ~~~ltcClean = 0) ∧
  (∀ c : Word, (ltcFields c).h ≤ 45 ∧ (ltcFields c).f ≤ 45 ∧ (ltcFields c).m ≤ 85 ∧ (ltcFields c).s ≤ 85)

/-- A code is valid exactly when its digits are those of a time of day that the frame rate has and drop-frame counting
does not skip; its sync, reserved and `DF` bits play no part (R130). -/
def Obligations.ValidCodesAreTimesOfDay : Prop :=
  ∀ (c : Word) (fps : Nat) (drop : Bool), fps ≤ 30 →
    (ltcValid c fps drop = true ↔
      ∃ h m s f, h < 24 ∧ m < 60 ∧ s < 60 ∧ f < fps ∧ ¬(drop = true ∧ s = 0 ∧ f < 2 ∧ m % 10 ≠ 0) ∧
        c &&& ltcData = ltcPack ⟨h, m, s, f, false⟩)

/-- Each field of `TCO_CTL` can be read back from the word at its place, and the sync and reserved positions are 0, so
that the write mask leaves the word unchanged (R70, R45). -/
def Obligations.TcoCtlWordFields : Prop :=
  ∀ (cfg : TcoConfig) (rt : TcoRuntime),
    let w := tcoCtlWord cfg rt
    unpack14 w = rt.outOffset ∧ w.getLsbD 16 = rt.outArmed ∧ w.getLsbD 17 = cfg.run ∧
    w.extractLsb' 18 2 = cfg.fpsCode ∧ w.extractLsb' 20 2 = cfg.syncSrc ∧ w.getLsbD 22 = cfg.term75 ∧
    w.extractLsb' 24 2 = cfg.srateMode ∧ w.extractLsb' 26 3 = cfg.pull ∧ w.getLsbD 29 = cfg.flywheel ∧
    (∀ b ∈ [7, 15, 23, 30, 31], w.getLsbD b = false) ∧ w &&& tcoMask = w ∧
    (tcoCtl2Word cfg).toNat = cfg.wckConv.toNat

/-- The two message forms by their bytes, the first byte the least significant, and which messages qualify (R74). -/
def Obligations.MessageClassesByBytes : Prop :=
  ∀ (len : BitVec 4) (b : BitVec 80),
    let byte := fun i => b.toNat / 256 ^ i % 256
    (msgClass len b = .full ↔
      len.toNat = 10 ∧ byte 0 = 0xF0 ∧ byte 1 = 0x7F ∧ byte 2 = 0x7F ∧ byte 3 = 1 ∧ byte 4 = 1 ∧
        (∀ i, 5 ≤ i → i ≤ 8 → byte i < 0x80) ∧ byte 9 = 0xF7) ∧
    (∀ p, msgClass len b = .quarter p ↔ len.toNat = 2 ∧ byte 0 = 0xF1 ∧ byte 1 < 0x80 ∧ p = byte 1 / 16) ∧
    (qualifies (msgClass len b) = true ↔
      msgClass len b = .full ∨ msgClass len b = .quarter 0 ∨ msgClass len b = .quarter 4)

/-- A register write puts the word on the bus in four bytes, the least significant at the lowest address; no other event
puts anything there; and in a well-formed configuration two different registers never share a byte (R40, R42, R57). -/
def Obligations.RegisterWritesAreLittleEndian : Prop :=
  (∀ (c : Config) (r : WriteReg) (v : Word), ∃ b0 b1 b2 b3 : Byte,
    busCells c (.regwrite r v) =
      [(c.addr.ofWrite r, b0), (c.addr.ofWrite r + 1, b1), (c.addr.ofWrite r + 2, b2), (c.addr.ofWrite r + 3, b3)] ∧
    v.toNat = b0.toNat + 256 * b1.toNat + 65536 * b2.toNat + 16777216 * b3.toNat) ∧
  (∀ (c : Config) (e : Event), (∀ r v, e ≠ .regwrite r v) → busCells c e = []) ∧
  (∀ (c : Config) (r r' : WriteReg) (v v' : Word) (x y : Host.Cell), c.addrOk = true → r ≠ r' →
    x ∈ busCells c (.regwrite r v) → y ∈ busCells c (.regwrite r' v') → x.1 ≠ y.1)

/-! ### What every operation keeps to -/

/-- Every operation, in every state, answers a next state with exactly one more result (R37); a result that is not `OK`
changes nothing else; `W_RANGE` is never a status; `E_INVAL` comes only from the operations R231 lists; events are only
added at the end; parameters and commands waiting are untouched. -/
def Obligations.EveryCommandAnswersOnce : Prop :=
  ∀ (i : Instr) (s : State), ∃ t r es,
    exec i s = .next t ∧ t.results = s.results ++ [r] ∧ t.events = s.events ++ es ∧ t.conf = s.conf ∧ t.port = s.port ∧
    r.st ≠ .range ∧ (r.st ≠ .ok → t = s.answered r.st false r.val) ∧ (r.st = .inval → mayInval i = true)

/-- While the device is down every operation but `DEV.INIT`, and without a TCO module every timecode operation, is a
no-op with status `S_NEUTRAL` and the zero of its value type, whatever its operands (R233). -/
def Obligations.NeutralNoOps : Prop :=
  (∀ (i : Instr) (s : State), (∀ t, i ≠ .devInit t) → s.devUp = false →
    exec i s = .next { s with results := s.results ++ [⟨.neutral, false, zeroValue i⟩] }) ∧
  (∀ (i : Instr) (s : State), needsTco i = true → s.rt.tcoPresent = false →
    exec i s = .next { s with results := s.results ++ [⟨.neutral, false, .none⟩] })

/-- Which operation writes which register (R41); the acknowledge writes 0 (R65). -/
def Obligations.RegisterWritersFollowTheTable : Prop :=
  ∀ (i : Instr) (s t : State) (es : List Event) (r : WriteReg) (v : Word),
    exec i s = .next t → t.events = s.events ++ es → .regwrite r v ∈ es →
      mayWrite i r = true ∧ (r = .irqAck → v = 0)

/-- "Every value written to a TCO register ... is first anded with 0x7f7f7f7f": no sync bit is ever written (R45,
R275). -/
def Obligations.TcoWritesCarryNoSyncBits : Prop :=
  ∀ (i : Instr) (s t : State) (es : List Event) (r : WriteReg) (v : Word),
    exec i s = .next t → t.events = s.events ++ es → .regwrite r v ∈ es → isTcoReg r = true →
      v &&& 0x80808080#32 = 0

/-- "`TCO_LTC_IN` and `TCO_STAT` are read by no operation other than `TCO.ELAPSED`": no operation but `IRQ` takes an
answer of the environment; an `IRQ` of a device that is up reads `STATUS` exactly once; and it reads the two inbound
registers only in an audio interrupt with a TCO module and the changed flag set, then once each (R111, R150, R154). The answer of `STATUS` is the first one queued (log 1). -/
def Obligations.OnlyIrqTakesInputs : Prop :=
  (∀ (i : Instr) (s t : State), i ≠ .irq → exec i s = .next t → t.env = s.env) ∧
  (∀ s t : State, s.devUp = true → exec .irq s = .next t →
    t.env.status = s.env.status.tail ∧
    ((t.env.ltcIn = s.env.ltcIn ∧ t.env.tcoStat = s.env.tcoStat) ∨
      ((readAnswer .status s).getLsbD s.conf.irqAudioBit = true ∧ s.rt.tcoPresent = true ∧ s.rt.ltcChanged = true ∧
        t.env.ltcIn = s.env.ltcIn.tail ∧ t.env.tcoStat = s.env.tcoStat.tail))) ∧
  (∀ (s : State) (st : Word) (later : List Word), s.env.status = st :: later → readAnswer .status s = st)

/-- "Exactly once per audio interrupt": `irq_count` grows by one in an audio `IRQ` of a device that is up and by no other
operation but `DEV.INIT`, which zeroes it (R19, R114, R247). -/
def Obligations.IrqCountCountsAudioInterrupts : Prop :=
  ∀ (i : Instr) (s t : State), exec i s = .next t → (∀ p, i ≠ .devInit p) →
    t.sch.irqCount =
      if i = .irq ∧ s.devUp = true ∧ (readAnswer .status s).getLsbD s.conf.irqAudioBit = true then s.sch.irqCount + 1
      else s.sch.irqCount

/-! ### The frame counter -/

/-- `FC.UPDATE` in natural numbers: the pointer is the raw field in frames modulo the wrap period, a smaller pointer than
the last is one wrap, and the count is `wrap_count * W + P * (p / P)`, modulo 2^64 (R92 to R94). -/
def Obligations.FrameCountFormula : Prop :=
  ∀ s : State, s.conf.ok = true → SizesFollowLatency s →
    let W := s.fc.hwBufferSize.toNat
    let P := s.fc.periodSize.toNat
    let p := s.hw.status.toNat / 2 ^ s.conf.ptrLsb % 2 ^ 16 * 2 ^ s.conf.ptrShift % W
    let wraps := if p < s.fc.lastHwPointer.toNat then (s.fc.wrapCount.toNat + 1) % 2 ^ 64 else s.fc.wrapCount.toNat
    ∃ fc, fcUpdate s = { s with fc := fc } ∧
      fc.periodSize = s.fc.periodSize ∧ fc.hwBufferSize = s.fc.hwBufferSize ∧
      fc.lastHwPointer.toNat = p ∧ fc.wrapCount.toNat = wraps ∧
      fc.frameCount.toNat = (wraps * W + P * (p / P)) % 2 ^ 64

/-- Two successive updates with the same sizes: without a wrap the count grows by the difference of the period
boundaries, on a wrap the wrap count grows by one and the frame count by at least one period (R96). `P` divides `W`, as
R96's `period_floor(p0) <= W - P` takes it, and nothing overflows 64 bits. -/
def Obligations.FrameCountMonotonic : Prop :=
  ∀ (fc : FrameCounter) (p0 p1 : Word) (j k : Nat),
    fc.periodSize.toNat = 2 ^ j → fc.hwBufferSize.toNat = 2 ^ k → j ≤ k →
    p0.toNat < 2 ^ k → p1.toNat < 2 ^ k → (fc.wrapCount.toNat + 3) * 2 ^ k < 2 ^ 64 →
    let f0 := fcAdvance fc p0
    let f1 := fcAdvance f0 p1
    let floor := fun p : Word => 2 ^ j * (p.toNat / 2 ^ j)
    (p0.toNat ≤ p1.toNat →
      f1.wrapCount = f0.wrapCount ∧ f1.frameCount.toNat + floor p0 = f0.frameCount.toNat + floor p1 ∧
      f0.frameCount.toNat ≤ f1.frameCount.toNat) ∧
    (p1.toNat < p0.toNat →
      f1.wrapCount.toNat = f0.wrapCount.toNat + 1 ∧
      f1.frameCount.toNat + floor p0 = f0.frameCount.toNat + 2 ^ k + floor p1 ∧
      f0.frameCount.toNat + 2 ^ j ≤ f1.frameCount.toNat)

/-- What `frame_count` means while interrupts are served in time (R95, R97): let the engine's true positions, in frames,
never go back and advance by less than a wrap period between two updates; if the counter agrees with the first position,
then after all updates the count is the period boundary at or just below the last true position. -/
def Obligations.FrameCountTracksPosition : Prop :=
  ∀ (fc : FrameCounter) (j k x : Nat) (xs : List Nat),
    fc.periodSize.toNat = 2 ^ j → fc.hwBufferSize.toNat = 2 ^ k → j ≤ k → xs ≠ [] →
    fc.lastHwPointer.toNat = x % 2 ^ k → fc.wrapCount.toNat = x / 2 ^ k →
    (x :: xs).IsChain (fun a b => a ≤ b ∧ b < a + 2 ^ k) → (∀ y ∈ xs, y < 2 ^ 64) →
      ((xs.foldl (fun f y => fcAdvance f (BitVec.ofNat 32 (y % 2 ^ k))) fc).frameCount.toNat =
        2 ^ j * ((xs.getLastD x) / 2 ^ j))

/-- `FC.SETLAT` (R98), with the sizes of R90 and R91 as numbers: every case of the rule. -/
def Obligations.FcSetlat : Prop :=
  ∀ (code : U64) (s : State),
    (s.devUp = false → exec (.fcSetlat code) s = .next (s.answered .neutral false .none)) ∧
    (s.devUp = true →
      (7 < code.toNat → exec (.fcSetlat code) s = .next (s.answered .inval false .none)) ∧
      (code.toNat = s.hw.ctl.toNat / 2 % 8 → exec (.fcSetlat code) s = .next (s.answered .ok false .none)) ∧
      (code.toNat ≤ 7 → code.toNat ≠ s.hw.ctl.toNat / 2 % 8 →
        (s.conf.family = .unrecognised → exec (.fcSetlat code) s = .next (s.answered .assert false .none)) ∧
        (s.conf.family ≠ .unrecognised → ∃ ctl p w : Word,
          ctl.toNat / 2 % 8 = code.toNat ∧ (∀ b, b = 0 ∨ 4 ≤ b → ctl.getLsbD b = s.hw.ctl.getLsbD b) ∧
          p.toNat = (if s.conf.family = .new ∧ code.toNat = 7 then 32 else 64 * 2 ^ code.toNat) ∧
          w.toNat = (if s.conf.family = .new then s.conf.wFixed % 2 ^ 32 else 2 * p.toNat) ∧
          exec (.fcSetlat code) s = .next { s with
            hw := { s.hw with ctl := ctl }
            fc := { s.fc with periodSize := p, hwBufferSize := w }
            events := s.events ++ [.regwrite .control ctl, .notifyConfig]
            results := s.results ++ [⟨.ok, true, .none⟩] })))

/-- `FC.RESET` zeroes the three counter fields and nothing else; "the next `FC.UPDATE` gives `frame_count =
period_floor(p)`" (R100). -/
def Obligations.FcReset : Prop :=
  ∀ s : State,
    (s.devUp = false → exec .fcReset s = .next (s.answered .neutral false .none)) ∧
    (s.devUp = true → ∃ t,
      exec .fcReset s = .next t ∧
      t = { s with
        fc := { s.fc with wrapCount := 0, lastHwPointer := 0, frameCount := 0 }
        results := s.results ++ [⟨.ok, false, .none⟩] } ∧
      ∀ p : Word, (fcAdvance t.fc p).frameCount = (periodFloor s.fc.periodSize p).setWidth 64)

/-- `FC.READ` returns the count of the last `FC.UPDATE`; nothing changes and no register is read (R101). -/
def Obligations.FcRead : Prop :=
  ∀ s : State,
    (s.devUp = false → exec .fcRead s = .next (s.answered .neutral false (.u64 0))) ∧
    (s.devUp = true → exec .fcRead s = .next (s.answered .ok false (.u64 s.fc.frameCount)))

/-! ### The interrupt scheduler -/

/-- "If neither audio nor MIDI condition is asserted, report 'not handled'": the only effects are the register read and
the update of `S.hw.status` (R113). -/
def Obligations.IrqNotHandled : Prop :=
  ∀ s : State, s.devUp = true →
    let st := readAnswer .status s
    st.getLsbD s.conf.irqAudioBit = false → (∀ p, p < s.conf.nMidi → st.getLsbD (s.conf.irqMidiBit + p) = false) →
      exec .irq s = .next { s with
        hw := { s.hw with status := st }
        env := envAfterRead .status s.env
        results := s.results ++ [⟨.ok, false, .u64 0⟩] }

/-- The MIDI step alone: every port with data has its enable cleared and is marked pending, no other bit moves,
`CONTROL` is written once and the drain handed off once (R116). -/
def Obligations.IrqMidiStep : Prop :=
  ∀ s : State, s.devUp = true →
    let st := readAnswer .status s
    let data := fun p => p < s.conf.nMidi ∧ st.getLsbD (s.conf.irqMidiBit + p) = true
    st.getLsbD s.conf.irqAudioBit = false → (∃ p, data p) →
      ∃ (ctl : Word) (pend : Vector Bool 4),
        (∀ b, b < 32 → (ctl.getLsbD b = true ↔ s.hw.ctl.getLsbD b = true ∧ ¬∃ p, data p ∧ b = 22 + p)) ∧
        (∀ p, p < 4 → (midiPendingAt pend p = true ↔ midiPendingAt s.sch.midiPending p = true ∨ data p)) ∧
        exec .irq s = .next { s with
          hw := ⟨ctl, st⟩
          sch := { s.sch with midiPending := pend }
          env := envAfterRead .status s.env
          events := s.events ++ [.regwrite .control ctl, .deferMidiDrain]
          results := s.results ++ [⟨.ok, false, .u64 1⟩] }

/-- The timecode hook and the audio `IRQ`, MIDI asserted or not. First the hook (R148, R155): nothing without a module;
with one, the set flag is cleared, then the inbound code decoded exactly when `ltc_changed` is 1, then a request scheduled
exactly when one is pending; those three steps are the statements of the timecode part. Then the interrupt (R112, R114,
R115): acknowledge, count, `FC.UPDATE`, the hook, the consumers, capture before playback, polling, the MIDI step; what each
of them changes. That the clock is sampled once also with polling off, and that an empty clock queue gives a free value,
are the model's readings, logs 23 and 1. The hook starts in the state `before`. -/
def Obligations.IrqAudioOrder : Prop :=
  (∀ s : State,
    (s.rt.tcoPresent = false → tcoElapsed s = s) ∧
    (s.rt.tcoPresent = true →
      let cleared := latchClear s
      let decoded := if s.rt.ltcChanged = true then inboundDecode cleared else cleared
      tcoElapsed s = if s.rt.pendKind = .none then decoded else schedule decoded)) ∧
  ∀ s : State, s.devUp = true →
    let st := readAnswer .status s
    st.getLsbD s.conf.irqAudioBit = true →
    let before := fcUpdate { s with
      hw := { s.hw with status := st }
      sch := { s.sch with irqCount := s.sch.irqCount + 1 }
      env := envAfterRead .status s.env
      events := s.events ++ [.regwrite .irqAck 0] }
    let now := nowAnswer (tcoElapsed before)
    let due : Prop := 0 < s.sch.pollRate.toNat ∧
      s.conf.pollUnitNs / s.sch.pollRate.toNat ≤ (now - s.sch.lastPollNs).toNat
    let data := fun p => p < s.conf.nMidi ∧ st.getLsbD (s.conf.irqMidiBit + p) = true
    ∃ (t : State) (hook : List Event),
      exec .irq s = .next t ∧
      (tcoElapsed before).events = before.events ++ hook ∧ (∀ e ∈ hook, isHookEvent e = true) ∧
      t.events = s.events ++ [.regwrite .irqAck 0] ++ hook ++
        (if s.sch.capPresent then [.notifyPcm .capture] else []) ++
        (if s.sch.pbPresent then [.notifyPcm .playback] else []) ++
        (if due then [.deferStatusRefresh] else []) ++
        (if (List.range s.conf.nMidi).any (fun p => st.getLsbD (s.conf.irqMidiBit + p)) then
          [.regwrite .control t.hw.ctl, .deferMidiDrain] else []) ∧
      t.fc = before.fc ∧ t.rt = (tcoElapsed before).rt ∧ t.cfg = (tcoElapsed before).cfg ∧
      t.hw.status = st ∧
      (∀ b, b < 32 → (t.hw.ctl.getLsbD b = true ↔ s.hw.ctl.getLsbD b = true ∧ ¬∃ p, data p ∧ b = 22 + p)) ∧
      (∀ p, p < 4 → (midiPendingAt t.sch.midiPending p = true ↔ midiPendingAt s.sch.midiPending p = true ∨ data p)) ∧
      t.sch = { s.sch with
        irqCount := s.sch.irqCount + 1
        lastPollNs := if due then now else s.sch.lastPollNs
        midiPending := t.sch.midiPending } ∧
      (∀ n later, s.env.now = n :: later → now = n ∧ t.env = { (tcoElapsed before).env with now := later }) ∧
      (s.env.now = [] → now = Config.freeNow (tcoElapsed before).env.draws ∧
        t.env = { (tcoElapsed before).env with draws := (tcoElapsed before).env.draws + 1 }) ∧
      t.devUp = true ∧ t.conf = s.conf ∧ t.port = s.port ∧ t.results = s.results ++ [⟨.ok, false, .u64 1⟩] ∧
      (s.rt.tcoPresent = false → hook = [] ∧ t.rt = s.rt ∧ t.cfg = s.cfg)

/-- "Its status is `OK` and its value is `HANDLED` exactly when `audio = 1` or `any_midi = 1`" (R117, R118). -/
def Obligations.IrqReportsHandled : Prop :=
  ∀ s : State, s.devUp = true →
    let st := readAnswer .status s
    ∃ t v, exec .irq s = .next t ∧ t.results = s.results ++ [⟨.ok, false, .u64 v⟩] ∧
      ((v = 1 ∧ (st.getLsbD s.conf.irqAudioBit = true ∨
          ∃ p, p < s.conf.nMidi ∧ st.getLsbD (s.conf.irqMidiBit + p) = true)) ∨
        (v = 0 ∧ st.getLsbD s.conf.irqAudioBit = false ∧
          ∀ p, p < s.conf.nMidi → st.getLsbD (s.conf.irqMidiBit + p) = false))

/-- `MIDI.DONE` (R120): a port that does not exist, a port that is not pending, a port that is. -/
def Obligations.MidiDone : Prop :=
  ∀ (p : BitVec 2) (s : State),
    (s.devUp = false → exec (.midiDone p) s = .next (s.answered .neutral false .none)) ∧
    (s.devUp = true →
      (s.conf.nMidi ≤ p.toNat → exec (.midiDone p) s = .next (s.answered .inval false .none)) ∧
      (p.toNat < s.conf.nMidi → midiPendingAt s.sch.midiPending p.toNat = false →
        exec (.midiDone p) s = .next (s.answered .ok false .none)) ∧
      (p.toNat < s.conf.nMidi → midiPendingAt s.sch.midiPending p.toNat = true →
        ∃ (ctl : Word) (pend : Vector Bool 4),
          (∀ b, b < 32 → (ctl.getLsbD b = true ↔ s.hw.ctl.getLsbD b = true ∨ b = 22 + p.toNat)) ∧
          (∀ q, q < 4 → (midiPendingAt pend q = true ↔ midiPendingAt s.sch.midiPending q = true ∧ q ≠ p.toNat)) ∧
          exec (.midiDone p) s = .next { s with
            hw := { s.hw with ctl := ctl }
            sch := { s.sch with midiPending := pend }
            events := s.events ++ [.regwrite .control ctl]
            results := s.results ++ [⟨.ok, true, .none⟩] }))

/-- `POLL.SET` (R121): every rate is legal; only a change is stored and notified. -/
def Obligations.PollSet : Prop :=
  ∀ (r : Word) (s : State),
    (s.devUp = false → exec (.pollSet r) s = .next (s.answered .neutral false .none)) ∧
    (s.devUp = true → r = s.sch.pollRate → exec (.pollSet r) s = .next (s.answered .ok false .none)) ∧
    (s.devUp = true → r ≠ s.sch.pollRate →
      exec (.pollSet r) s = .next { s with
        sch := { s.sch with pollRate := r }
        events := s.events ++ [.notifyCtl 0x12]
        results := s.results ++ [⟨.ok, true, .none⟩] })

/-- `CTL.UPDATE` (R122), bit by bit: what it refuses, and what it writes. What a new sample-rate code means to the timecode
rules is `RateIs` (InboundDecodePublishes, ScheduleArmsOutput). -/
def Obligations.CtlUpdate : Prop :=
  ∀ (mask value : Word) (s : State),
    let latency := mask.getLsbD 1 = true ∨ mask.getLsbD 2 = true ∨ mask.getLsbD 3 = true
    let draining := ∃ p, p < s.conf.nMidi ∧ mask.getLsbD (22 + p) = true ∧ midiPendingAt s.sch.midiPending p = true
    (s.devUp = false → exec (.ctlUpdate mask value) s = .next (s.answered .neutral false .none)) ∧
    (s.devUp = true →
      (latency ∨ draining → exec (.ctlUpdate mask value) s = .next (s.answered .inval false .none)) ∧
      (¬latency → ¬draining → ∃ new : Word,
        (∀ b, b < 32 → new.getLsbD b = if mask.getLsbD b then value.getLsbD b else s.hw.ctl.getLsbD b) ∧
        let reserved := (new.getLsbD 6 = true ∧ new.getLsbD 7 = true) ∨ (new.getLsbD 8 = true ∧ new.getLsbD 9 = true)
        (reserved → exec (.ctlUpdate mask value) s = .next (s.answered .inval false .none)) ∧
        (¬reserved → new = s.hw.ctl → exec (.ctlUpdate mask value) s = .next (s.answered .ok false .none)) ∧
        (¬reserved → new ≠ s.hw.ctl →
          exec (.ctlUpdate mask value) s = .next { s with
            hw := { s.hw with ctl := new }
            events := s.events ++ [.regwrite .control new]
            results := s.results ++ [⟨.ok, true, .none⟩] })))

/-- `PCM.ATTACH` (R123): one presence bit, reported as changed when it was the other value; no register, no event. -/
def Obligations.PcmAttach : Prop :=
  ∀ (v : Bool) (s : State),
    (s.devUp = false → ∀ d, exec (.pcmAttach d v) s = .next (s.answered .neutral false .none)) ∧
    (s.devUp = true →
      exec (.pcmAttach .capture v) s = .next { s with
        sch := { s.sch with capPresent := v }
        results := s.results ++ [⟨.ok, decide (s.sch.capPresent ≠ v), .none⟩] } ∧
      exec (.pcmAttach .playback v) s = .next { s with
        sch := { s.sch with pbPresent := v }
        results := s.results ++ [⟨.ok, decide (s.sch.pbPresent ≠ v), .none⟩] })

/-! ### Time-code arithmetic -/

/-- `ltc_inc` of a valid code is valid, keeps the `DF` bit, and is one label later in the day: by the plain index without
drop-frame counting, by the drop-frame index at 30 with it; on any word the result has no sync or reserved bit (R131). -/
def Obligations.LtcIncIsOneFrameLater : Prop :=
  (∀ (c : Word) (fps : Nat) (drop : Bool), fps = 24 ∨ fps = 25 ∨ fps = 30 → ltcValid c fps drop = true →
    ltcValid (ltcInc c fps drop) fps drop = true ∧ (ltcInc c fps drop).getLsbD 6 = c.getLsbD 6 ∧
    (drop = false →
      frameIndex (ltcFields (ltcInc c fps drop)) fps =
        (frameIndex (ltcFields (c &&& ltcClean)) fps + 1) % (86400 * fps)) ∧
    (drop = true → fps = 30 →
      dropIndex (ltcFields (ltcInc c fps drop)) = (dropIndex (ltcFields (c &&& ltcClean)) + 1) % 2589408)) ∧
  (∀ (c : Word) (fps : Nat) (drop : Bool), ltcInc c fps drop &&& ~~~ltcClean = 0)

/-- "29.97 drop-frame skips frame numbers 00 and 01 at the start of each minute except multiples of ten": the last label
of every minute of the day, with drop-frame counting and without (R132). -/
def Obligations.DropFrameSkip : Prop :=
  ∀ (h m : Nat) (df : Bool), h < 24 → m < 60 →
    let m' := (m + 1) % 60
    let h' := if m = 59 then (h + 1) % 24 else h
    ltcInc (ltcPack ⟨h, m, 59, 29, df⟩) 30 true = ltcPack ⟨h', m', 0, if m' % 10 = 0 then 0 else 2, df⟩ ∧
    ltcInc (ltcPack ⟨h, m, 59, 29, df⟩) 30 false = ltcPack ⟨h', m', 0, 0, df⟩

/-- The closed form of `ltc_add` equals the iteration on valid codes, for every count, drop-frame counting at 30 included
("to be proved equal to the iteration of rule R136 on valid codes", R137); `ltcAdd` is that iteration, on every word. -/
def Obligations.ClosedFormAgrees : Prop :=
  (∀ (c : Word) (n fps : Nat) (drop : Bool), fps = 24 ∨ fps = 25 ∨ fps = 30 → (drop = true → fps = 30) →
    ltcValid c fps drop = true → ltcAddClosed c n fps drop = ltcAdd c n fps drop) ∧
  (∀ (c : Word) (n fps : Nat) (drop : Bool),
    ltcAdd c n fps drop = (fun x => ltcInc x fps drop)^[n] (c &&& 0x3f7f7f7f#32))

/-- The frame rate, drop flag and scale of the four frame-rate codes (R73), and the twelve frame durations of R134. -/
def Obligations.FrameDurations : Prop :=
  [fpsOf 0, fpsOf 1, fpsOf 2, fpsOf 3] = [⟨24, false, 1000⟩, ⟨25, false, 1000⟩, ⟨30, true, 999⟩, ⟨30, false, 1000⟩] ∧
  [(32000, [1333, 1280, 1067, 1066]), (44100, [1837, 1764, 1471, 1470]), (48000, [2000, 1920, 1601, 1600])].all
    (fun row => (List.range 4).map (fun f => frameSamples row.1 (BitVec.ofNat 2 f)) == row.2) = true

/-! ### Timecode messages and the drift estimator -/

/-- `MTC.MSG` (R145, R146, R188): a malformed message is dropped; a well-formed one sets the changed flag; the first
qualifying one leaves only its time stamp besides. -/
def Obligations.MtcMsgSetsChanged : Prop :=
  ∀ (ts : U64) (len : BitVec 4) (b : BitVec 80) (s : State), s.devUp = true → s.rt.tcoPresent = true →
    (msgClass len b = .malformed → exec (.mtcMsg ts len b) s = .next (s.answered .ok false .none)) ∧
    (msgClass len b ≠ .malformed → qualifies (msgClass len b) = false →
      exec (.mtcMsg ts len b) s = .next { s with
        rt := { s.rt with ltcChanged := true }
        results := s.results ++ [⟨.ok, false, .none⟩] }) ∧
    (qualifies (msgClass len b) = true → s.rt.lastMsgValid = false →
      exec (.mtcMsg ts len b) s = .next { s with
        rt := { s.rt with ltcChanged := true, lastMsgNs := ts, lastMsgValid := true }
        results := s.results ++ [⟨.ok, false, .none⟩] })

/-- A further qualifying message pushes one duration into the ring and updates the pull factor, notifying it only when it
differs (R187, R190). `oldest` is what leaves a full ring; `est` is the new estimate. -/
def Obligations.QualifyingMessagePushesDuration : Prop :=
  ∀ (ts : U64) (len : BitVec 4) (b : BitVec 80) (s : State), s.devUp = true → s.rt.tcoPresent = true →
    qualifies (msgClass len b) = true → s.rt.lastMsgValid = true →
    let d := ts - s.rt.lastMsgNs
    let oldest : U64 := if s.rt.ringCnt = s.conf.driftN then (s.rt.ring[s.rt.ringPos]?).getD 0 else 0
    let cnt := if s.rt.ringCnt = s.conf.driftN then s.conf.driftN else s.rt.ringCnt + 1
    let sum := s.rt.ringSum - oldest + d
    let est := BitVec.ofNat 32 (pullEstimate cnt sum.toNat s.cfg.fpsCode)
    let rt : TcoRuntime := { s.rt with
      ltcChanged := true
      lastMsgNs := ts
      ring := s.rt.ring.set s.rt.ringPos d
      ringPos := (s.rt.ringPos + 1) % s.conf.driftN
      ringCnt := cnt
      ringSum := sum }
    exec (.mtcMsg ts len b) s = .next (
      if sum = 0 ∨ est = s.rt.pullFactor then
        { s with rt := rt, results := s.results ++ [⟨.ok, false, .none⟩] }
      else
        { s with
          rt := { rt with pullFactor := est }
          events := s.events ++ [.notifyPull est]
          results := s.results ++ [⟨.ok, false, .none⟩] })

/-- The estimate is `10^9 * 1000 * ring_cnt / ring_sum` against the nominal rate, as a rational, rounded half up and
saturated to 32 bits (R190, R196). -/
def Obligations.PullEstimateIsRounded : Prop :=
  ∀ (cnt sum : Nat) (fpsCode : BitVec 2), 0 < sum →
    let i := fpsOf fpsCode
    let realFps : ℚ := 1000000000 * cnt / sum
    let nominalFps : ℚ := i.fps * i.scale / 1000
    (pullEstimate cnt sum fpsCode : ℤ) = min ⌊realFps * 1000 / nominalFps + 1 / 2⌋ (2 ^ 32 - 1)

/-- "Given a fixed sequence of N identical inter-arrival durations equal to the nominal frame period, estimated pull
factor equals 1000 (no drift); given durations 0.1% longer, pull factor equals 999", for any number of durations; and
the nearest whole nanosecond where the period is not whole (R193). -/
def Obligations.PullFactorVectors : Prop :=
  ∀ n : Nat, 0 < n →
    pullEstimate n (n * 40000000) 1 = 1000 ∧ pullEstimate n (n * 40040000) 1 = 999 ∧
    pullEstimate n (n * 41666667) 0 = 1000 ∧ pullEstimate n (n * 33366667) 2 = 1000

/-! ### Output requests and their scheduling -/

/-- `LTC.START`, `LTC.START.NOW`, `LTC.START.WALL` (R160 to R163): an accepted request takes the one pending slot, in place
of a request still pending; nothing else changes, nothing is written, the clock is not read. An invalid code is refused
with the slot as it was; "every 64-bit value is a legal offset" and every target is legal. -/
def Obligations.OutputRequestsOnlyStore : Prop :=
  ∀ (c : Word) (target offset : U64) (s : State),
    (s.devUp = false ∨ s.rt.tcoPresent = false → ∀ i ∈ [.ltcStart c target, .ltcStartNow c, .ltcStartWall offset],
      exec i s = .next (s.answered .neutral false .none)) ∧
    (s.devUp = true → s.rt.tcoPresent = true →
      let valid := ltcValid c (fpsOf s.cfg.fpsCode).fps (fpsOf s.cfg.fpsCode).drop
      (valid = false → ∀ i ∈ [.ltcStart c target, .ltcStartNow c],
        exec i s = .next (s.answered .inval false .none)) ∧
      (valid = true → exec (.ltcStart c target) s = .next { s with
        rt := { s.rt with pendKind := .literal, pendCode := c &&& 0x3f7f7f7f#32, pendTarget := target }
        results := s.results ++ [⟨.ok, false, .none⟩] }) ∧
      (valid = true → exec (.ltcStartNow c) s = .next { s with
        rt := { s.rt with pendKind := .now, pendCode := c &&& 0x3f7f7f7f#32, pendTarget := 0 }
        results := s.results ++ [⟨.ok, false, .none⟩] }) ∧
      exec (.ltcStartWall offset) s = .next { s with
        rt := { s.rt with pendKind := .wall, pendCode := 0, pendTarget := offset }
        results := s.results ++ [⟨.ok, false, .none⟩] })

/-- `LTC.STOP` (R178): a pending request is cancelled; running output is stopped by one write of `TCO_CTL`, in which the
run and set bits are 0 and every other bit is repeated. -/
def Obligations.LtcStop : Prop :=
  ∀ s : State,
    (s.devUp = false ∨ s.rt.tcoPresent = false → exec .ltcStop s = .next (s.answered .neutral false .none)) ∧
    (s.devUp = true → s.rt.tcoPresent = true →
      (s.cfg.run = false → exec .ltcStop s = .next { s with
        rt := { s.rt with pendKind := .none, pendCode := 0, pendTarget := 0 }
        results := s.results ++ [⟨.ok, false, .none⟩] }) ∧
      (s.cfg.run = true → exec .ltcStop s = .next { s with
        cfg := { s.cfg with run := false }
        rt := { s.rt with pendKind := .none, pendCode := 0, pendTarget := 0, outArmed := false }
        events := s.events ++ [.regwrite .tcoCtl (tcoCtlWord s.cfg s.rt &&& ~~~0x00030000#32)]
        results := s.results ++ [⟨.ok, false, .none⟩] }))

/-- `LATCH_CLEAR` (R177): the write "differs from the arming write only in bit 16"; nothing when nothing is armed. -/
def Obligations.LatchClear : Prop :=
  ∀ s : State,
    (s.rt.outArmed = false → latchClear s = s) ∧
    (s.rt.outArmed = true → latchClear s = { s with
      rt := { s.rt with outArmed := false }
      events := s.events ++ [.regwrite .tcoCtl (tcoCtlWord s.cfg s.rt &&& ~~~0x00010000#32)] })

/-- `sys_rate()` and `INBOUND_DECODE`. The rate is the entry of `RATE` that bits 9:6 of the control word select, none for
a reserved code, and the default `RATE` is the table of R63. The decode step (R150 to R152), on any two words `a` and `b`
that the two reads answer: the code is cleaned and advanced by one frame, the stamp is the frame count less the offset in
single-speed units, the rate is that of the word read. When the step runs is in IrqAudioOrder (R148). -/
def Obligations.InboundDecodePublishes : Prop :=
  (∀ (conf : Config) (ctl : Word) (r : SysRate), sysRate conf ctl = some r ↔ RateIs conf ctl r) ∧
  (∀ code, code < 16 → Config.standard.rates[code]? =
    some (if code % 4 = 3 ∨ code / 4 = 3 then none
      else some ⟨if code % 4 = 0 then 32000 else if code % 4 = 1 then 44100 else 48000, 2 ^ (code / 4)⟩)) ∧
  ∀ (s : State) (r : SysRate) (a b : Word) (as bs : List Word),
    RateIs s.conf s.hw.ctl r → s.env.ltcIn = a :: as → s.env.tcoStat = b :: bs →
    let fps := if b.toNat / 65536 % 4 = 0 then 24 else if b.toNat / 65536 % 4 = 1 then 25 else 30
    let drop := decide (fps = 30) && a.getLsbD 6
    let offset := 128 * (b.toNat / 256 % 128) + b.toNat % 128
    inboundDecode s = { s with
      rt := { s.rt with
        ltcIn := ltcInc (a &&& 0x3f7f7f7f#32) fps drop
        ltcInTime := s.fc.frameCount - BitVec.ofNat 64 (offset / r.sf)
        ltcInValid := b.getLsbD 18
        ltcInFps := if fps = 24 then 0 else if fps = 25 then 1 else if drop then 2 else 3
        ltcChanged := false }
      env := { s.env with ltcIn := as, tcoStat := bs } }

/-- Where a request ends up (R168, R171, R172): an early target is moved up by the least whole number of frames that
reaches the floor, and the code with it; a target more than a frame late is kept and its distance recorded as a negative
count; in between nothing changes. No start is below the floor. -/
def Obligations.PlanRespectsTheFloor : Prop :=
  ∀ (t : Target) (floor fs : Int) (fps : Nat) (drop : Bool), 0 < fs →
    let p := planFrom t floor fs fps drop
    floor ≤ p.start ∧
    (t.start < floor → ∃ n : Nat, 1 ≤ n ∧ p.adjust = n ∧ p.start = t.start + n * fs ∧ p.start - fs < floor ∧
      p.code = ltcAdd t.code n fps drop) ∧
    (floor ≤ t.start → p.start = t.start ∧ p.code = t.code ∧
      (t.start ≤ floor + fs → p.adjust = 0) ∧
      (floor + fs < t.start → p.adjust ≤ -1 ∧ -p.adjust * fs ≤ t.start - floor ∧
        t.start - floor < (1 - p.adjust) * fs))

/-- The wall-clock variant (R167): the code is the time of day of `wall_sec` plus the offset, at the first frame number
that exists; it is a valid code; its start is the beginning of the current second, in single-speed samples. -/
def Obligations.WallTargetIsTimeOfDay : Prop :=
  ∀ (w : WallTime) (offset : U64) (fn : Int) (sr1 fps : Nat) (drop : Bool), 3 ≤ fps →
    ∃ tod : Nat, tod < 86400 ∧ ((w.sec : Int) + offset.toInt - tod) % 86400 = 0 ∧
      let f0 := if drop = true ∧ tod % 60 = 0 ∧ tod / 60 % 10 ≠ 0 then 2 else 0
      (wallTarget w offset fn sr1 drop).code = ltcPack ⟨tod / 3600, tod / 60 % 60, tod % 60, f0, false⟩ ∧
      ltcValid (wallTarget w offset fn sr1 drop).code fps drop = true ∧
      (wallTarget w offset fn sr1 drop).start = fn - (w.nsec.val * sr1 / 1000000000 : Nat)

/-- `SCHEDULE` (R165), with its inputs and steps in numbers. The rate is `RateIs` (R63), the frame-rate code gives `fps`,
`drop` and `scale` (R73), the calibration entry is `CalibIs` (R6). Steps 1 and 2 (R170): `Fn` and `Pn` are frame count and
period over the speed factor, `fs` the frame duration. The variant (R166, R167): a literal request starts at its target
over the speed factor, "now" at `Fn`, both with the stored code; a wall request is `wallTarget` of the clock sample and
the stored offset (WallTargetIsTimeOfDay). Step 3 is `planFrom` over the floor `Fn + 2 * Pn` (PlanRespectsTheFloor). Steps 4
to 6 (R173 to R176): what is written, code before control, and what is stored; the warning and the sticky bit exactly
when the offset does not fit 14 bits, the low 14 bits written all the same. The wall clock is sampled for a wall request
alone, and the sample is the first one queued (log 1). -/
def Obligations.ScheduleArmsOutput : Prop :=
  (∀ (conf : Config) (f : BitVec 2) (m : Nat) (cal : Int), calibAt conf f m = some cal ↔ CalibIs conf f m cal) ∧
  (∀ (s : State) (w : WallTime) (later : List WallTime), s.env.wall = w :: later →
    wallAnswer s = w ∧ afterWall s = { s with env := { s.env with wall := later } }) ∧
  ∀ (s : State) (r : SysRate) (cal : Int),
    RateIs s.conf s.hw.ctl r → CalibIs s.conf s.cfg.fpsCode r.mode cal →
    let fpsCode := s.cfg.fpsCode.toNat
    let fps := if fpsCode = 0 then 24 else if fpsCode = 1 then 25 else 30
    let drop := decide (fpsCode = 2)
    let scale := if fpsCode = 2 then 999 else 1000
    let fn : Nat := s.fc.frameCount.toNat / r.sf
    let pn : Nat := s.fc.periodSize.toNat / r.sf
    let fs : Nat := r.sr1 * 1000 / (fps * scale)
    let floor : Int := fn + 2 * pn
    let target : Target :=
      if s.rt.pendKind = .wall then wallTarget (wallAnswer s) s.rt.pendTarget fn r.sr1 drop
      else if s.rt.pendKind = .now then ⟨s.rt.pendCode, fn⟩
      else ⟨s.rt.pendCode, (s.rt.pendTarget.toNat / r.sf : Nat)⟩
    let plan := planFrom target floor fs fps drop
    let off := plan.start - floor - cal
    let tooWide := off < 0 ∨ 16383 < off
    ∃ (code ctl : Word) (offset : BitVec 14),
      code &&& 0x3f7f7f3f#32 = plan.code &&& 0x3f7f7f3f#32 ∧ code.getLsbD 6 = drop ∧ code &&& ~~~0x3f7f7f7f#32 = 0 ∧
      (offset.toNat : Int) = off % 16384 ∧
      unpack14 ctl = offset ∧ ctl.getLsbD 16 = true ∧ ctl.getLsbD 17 = true ∧
      ctl &&& ~~~0x00037f7f#32 = tcoCtlWord s.cfg s.rt &&& ~~~0x00037f7f#32 ∧
      schedule s = { s with
        cfg := { s.cfg with run := true }
        rt := { s.rt with
          outCode := code, outOffset := offset
          outStart := BitVec.ofInt 64 plan.start, outAdjust := BitVec.ofInt 64 plan.adjust
          outArmed := true, outWarn := decide tooWide || s.rt.outWarn
          pendKind := .none, pendCode := 0, pendTarget := 0 }
        env := if s.rt.pendKind = .wall then (afterWall s).env else s.env
        events := s.events ++ (if tooWide then [.warnOffset off] else []) ++
          [.regwrite .tcoLtcOut code, .regwrite .tcoCtl ctl] }

/-- A reserved rate code abandons the decode step and the scheduling step, each with its own `fault(ASSERT)`, each before
its first write; the set flag is cleared all the same (R148, R182, R235). That no inbound register is read then is the
model's choice between R150's text and V-EN-8 (log 9). -/
def Obligations.AssertionAbandonsOnlyItsStep : Prop :=
  ∀ s : State, s.rt.tcoPresent = true → (¬∃ r, RateIs s.conf s.hw.ctl r) →
    tcoElapsed s = { s with
      rt := { s.rt with outArmed := false }
      events := s.events ++
        (if s.rt.outArmed then [.regwrite .tcoCtl (tcoCtlWord s.cfg s.rt &&& ~~~0x00010000#32)] else []) ++
        (if s.rt.ltcChanged then [.faultAssert] else []) ++
        (if s.rt.pendKind = .none then [] else [.faultAssert]) }

/-- The output state machine (R179): after the hook a pending request is armed and gone; armed output with nothing
pending is latched or running; with neither, the phase is what it was. The phase is named from stored state as R30 does. -/
def Obligations.HookMovesThePhase : Prop :=
  (∀ (s : State) (r : SysRate), RateIs s.conf s.hw.ctl r → outPhase s = some (
    if s.cfg.run = false then .idle
    else if s.rt.outArmed = true then .armed
    else if s.fc.frameCount.toNat / r.sf < s.rt.outStart.toNat then .latched else .running)) ∧
  ∀ s : State, Inv s → s.rt.tcoPresent = true →
    let t := tcoElapsed s
    (s.rt.pendKind ≠ .none → outPhase t = some .armed ∧ t.rt.pendKind = .none) ∧
    (s.rt.pendKind = .none → outPhase s = some .armed → outPhase t = some .latched ∨ outPhase t = some .running) ∧
    (s.rt.pendKind = .none → outPhase s ≠ some .armed → outPhase t = outPhase s)

/-- The look-ahead property (R181), in an audio `IRQ` that finds a "start now" request pending: with a calibration entry
in the range R181 gives, the start is at or beyond two periods after the frame count of this interrupt, the offset is the
lead less the entry, within 14 bits, and no warning is raised. Frame counts from 2^63 on, where a start may pass 2^64, are left out. -/
def Obligations.LookAhead : Prop :=
  ∀ (s : State) (r : SysRate) (cal : Int), Inv s → s.devUp = true → s.rt.tcoPresent = true → s.rt.pendKind = .now →
    (readAnswer .status s).getLsbD s.conf.irqAudioBit = true →
    RateIs s.conf s.hw.ctl r → CalibIs s.conf s.cfg.fpsCode r.mode cal →
    let fs := frameSamples r.sr1 s.cfg.fpsCode
    (fs : Int) - 16384 ≤ cal → cal ≤ 0 →
    ∃ t, exec .irq s = .next t ∧
      (t.fc.frameCount.toNat < 2 ^ 63 →
        t.rt.outArmed = true ∧ t.rt.outWarn = s.rt.outWarn ∧
        t.fc.frameCount.toNat + 2 * t.fc.periodSize.toNat ≤ t.rt.outStart.toNat * r.sf ∧
        (t.rt.outOffset.toNat : Int) =
          t.rt.outStart.toNat - (t.fc.frameCount.toNat / r.sf + 2 * (t.fc.periodSize.toNat / r.sf)) - cal ∧
        (t.rt.outOffset.toNat : Int) < fs - cal)

/-! ### Configuration, status, lifetime -/

/-- The setters carried by `TCO_CTL` (R200 to R204, R206, R208): refused above the legal set, nothing on an unchanged
value, one register write and one notification on a changed one. -/
def Obligations.TcoCtlSetters : Prop :=
  SetterBehaves .cfgSync 2 (·.syncSrc.toNat) (fun v c => { c with syncSrc := BitVec.ofNat 2 v.toNat }) .tcoCtl
    tcoCtlWord 0x50 ∧
  SetterBehaves .cfgFps 3 (·.fpsCode.toNat) (fun v c => { c with fpsCode := BitVec.ofNat 2 v.toNat }) .tcoCtl
    tcoCtlWord 0x51 ∧
  SetterBehaves .cfgSrate 2 (·.srateMode.toNat) (fun v c => { c with srateMode := BitVec.ofNat 2 v.toNat }) .tcoCtl
    tcoCtlWord 0x52 ∧
  SetterBehaves .cfgPull 4 (·.pull.toNat) (fun v c => { c with pull := BitVec.ofNat 3 v.toNat }) .tcoCtl
    tcoCtlWord 0x53 ∧
  SetterBehaves .cfgTerm 1 (fun c => if c.term75 then 1 else 0) (fun v c => { c with term75 := decide (v = 1) })
    .tcoCtl tcoCtlWord 0x55 ∧
  SetterBehaves .cfgFlywheel 1 (fun c => if c.flywheel then 1 else 0) (fun v c => { c with flywheel := decide (v = 1) })
    .tcoCtl tcoCtlWord 0x57

/-- `CFG.WCK`, carried by `TCO_CTL2`, which then holds the value; "it is the only operation besides `DEV.INIT` that writes
`TCO_CTL2`, and it does not write `TCO_CTL`" (R200, R205). -/
def Obligations.WordClockSetter : Prop :=
  SetterBehaves .cfgWck 2 (·.wckConv.toNat) (fun v c => { c with wckConv := BitVec.ofNat 2 v.toNat }) .tcoCtl2
    (fun c _ => BitVec.ofNat 32 c.wckConv.toNat) 0x54 ∧
  (∀ (i : Instr) (s t : State) (es : List Event) (v : Word),
    exec i s = .next t → t.events = s.events ++ es → .regwrite .tcoCtl2 v ∈ es →
      (∃ w, i = .cfgWck w) ∨ ∃ p, i = .devInit p)

/-- `CFG.RUN` (R207), every case: clearing the flag does all that `LTC.STOP` does, setting it writes one word. -/
def Obligations.RunSetter : Prop :=
  ∀ (v : U64) (s : State),
    (s.devUp = false ∨ s.rt.tcoPresent = false → exec (.cfgRun v) s = .next (s.answered .neutral false .none)) ∧
    (s.devUp = true → s.rt.tcoPresent = true →
      (1 < v.toNat → exec (.cfgRun v) s = .next (s.answered .inval false .none)) ∧
      (v = 0 → s.cfg.run = false → exec (.cfgRun v) s = .next { s with
        rt := { s.rt with pendKind := .none, pendCode := 0, pendTarget := 0 }
        results := s.results ++ [⟨.ok, false, .none⟩] }) ∧
      (v = 0 → s.cfg.run = true → exec (.cfgRun v) s = .next { s with
        cfg := { s.cfg with run := false }
        rt := { s.rt with pendKind := .none, pendCode := 0, pendTarget := 0, outArmed := false }
        events := s.events ++ [.regwrite .tcoCtl (tcoCtlWord s.cfg s.rt &&& ~~~0x00030000#32), .notifyCtl 0x56]
        results := s.results ++ [⟨.ok, true, .none⟩] }) ∧
      (v = 1 → s.cfg.run = true → exec (.cfgRun v) s = .next (s.answered .ok false .none)) ∧
      (v = 1 → s.cfg.run = false → exec (.cfgRun v) s = .next { s with
        cfg := { s.cfg with run := true }
        events := s.events ++ [.regwrite .tcoCtl (tcoCtlWord s.cfg s.rt ||| 0x00020000#32), .notifyCtl 0x56]
        results := s.results ++ [⟨.ok, true, .none⟩] }))

/-- `TCO.STATUS` (R215) writes no state and reads no register; the record holds the fields it names; without a module, in a
state of a run, every field of it is 0 but the four live ones. `ring_cnt` is read modulo 2^32 (log 16). -/
def Obligations.StatusSnapshot : Prop :=
  ∀ s : State,
    (s.devUp = false → exec .tcoStatus s = .next (s.answered .neutral false (.snapshot Snapshot.zero))) ∧
    (s.devUp = true → ∃ x : Snapshot,
      exec .tcoStatus s = .next (s.answered (if s.rt.tcoPresent then .ok else .neutral) false (.snapshot x)) ∧
      x.tcoPresent = s.rt.tcoPresent ∧ x.ltcIn = s.rt.ltcIn ∧ x.ltcInTime = s.rt.ltcInTime ∧
      x.ltcInFps = s.rt.ltcInFps ∧ x.ltcInValid = s.rt.ltcInValid ∧ x.ltcChanged = s.rt.ltcChanged ∧
      x.pullFactor = s.rt.pullFactor ∧ x.ringCnt.toNat = s.rt.ringCnt % 2 ^ 32 ∧
      ({ syncSrc := x.syncSrc, fpsCode := x.fpsCode, srateMode := x.srateMode, pull := x.pull, wckConv := x.wckConv,
         term75 := x.term75, run := x.run, flywheel := x.flywheel } : TcoConfig) = s.cfg ∧
      x.pendKind = s.rt.pendKind ∧ x.outArmed = s.rt.outArmed ∧ x.outWarn = s.rt.outWarn ∧
      x.outCode = s.rt.outCode ∧ x.outOffset = s.rt.outOffset ∧ x.outStart = s.rt.outStart ∧
      x.outAdjust = s.rt.outAdjust ∧ x.frameCount = s.fc.frameCount ∧ x.periodSize = s.fc.periodSize ∧
      x.irqCount = s.sch.irqCount ∧ x.ctl = s.hw.ctl ∧
      (Inv s → s.rt.tcoPresent = false → x = { Snapshot.zero with
        frameCount := s.fc.frameCount, periodSize := s.fc.periodSize, irqCount := s.sch.irqCount, ctl := s.hw.ctl }))

/-- `DEV.INIT` (R220), from any state, up or down: every field of `S` at the value it has at power-on, but that the device
is up and the module as told, "so the state after it never depends on the state before"; the writes in their order. -/
def Obligations.DevInit : Prop :=
  ∀ (tco : Bool) (s : State),
    let p := State.powerOn s.conf
    exec (.devInit tco) s = .next { p with
      devUp := true
      rt := { p.rt with tcoPresent := tco }
      env := s.env
      port := s.port
      events := s.events ++ [.regwrite .control 0] ++
        (if tco then [.regwrite .tcoCtl 0, .regwrite .tcoCtl2 0] else [])
      results := s.results ++ [⟨.ok, false, .none⟩] }

/-- `DEV.SHUTDOWN` (R222): the TcoRuntime reset and the stopped word pushed if there is a module, the configuration but
the run flag kept; then the run flag and every interrupt enable of the control word off, its other bits kept; no port
pending, the device down. That the reset takes in `out_warn`, as the pseudocode of R222 has it ("every field of ... R25 to
R33"), is the model's choice against R29, R234 and R261, which let only `DEV.INIT` clear it: log 25. -/
def Obligations.DevShutdown : Prop :=
  ∀ s : State,
    (s.devUp = false → exec .devShutdown s = .next (s.answered .neutral false .none)) ∧
    (s.devUp = true → ∃ ctl : Word,
      (∀ b, b < 32 → (ctl.getLsbD b = true ↔
        s.hw.ctl.getLsbD b = true ∧ b ≠ 0 ∧ b ≠ 5 ∧ ¬∃ p, p < s.conf.nMidi ∧ b = 22 + p)) ∧
      exec .devShutdown s = .next { s with
        devUp := false
        hw := { s.hw with ctl := ctl }
        sch := { s.sch with midiPending := Vector.replicate 4 false }
        cfg := if s.rt.tcoPresent then { s.cfg with run := false } else s.cfg
        rt := if s.rt.tcoPresent then TcoRuntime.reset s.conf else s.rt
        events := s.events ++
          (if s.rt.tcoPresent then [.regwrite .tcoCtl (tcoCtlWord s.cfg s.rt &&& ~~~0x00037f7f#32)] else []) ++
          [.regwrite .control ctl]
        results := s.results ++ [⟨.ok, false, .none⟩] })

/-! ### Reset and the invariant -/

/-- The reset values of R38 at power-on (R260), for both families. -/
def Obligations.ResetValues : Prop :=
  ∀ c : Config,
    let s := State.powerOn c
    s.devUp = false ∧ s.hw = ⟨0, 0⟩ ∧
    s.fc = ⟨64, if c.family = .new then BitVec.ofNat 32 c.wFixed else 128, 0, 0, 0⟩ ∧
    s.sch.irqCount = 0 ∧ (∀ p, midiPendingAt s.sch.midiPending p = false) ∧ s.sch.pollRate = 0 ∧ s.sch.lastPollNs = 0 ∧
    s.sch.capPresent = false ∧ s.sch.pbPresent = false ∧
    s.cfg = ⟨0, 0, 0, 0, 0, false, false, false⟩ ∧
    s.rt = { tcoPresent := false, ltcIn := 0, ltcInTime := 0, ltcInValid := false, ltcInFps := 0, ltcChanged := false,
             pendKind := .none, pendCode := 0, pendTarget := 0, outArmed := false, outCode := 0, outOffset := 0,
             outStart := 0, outAdjust := 0, outWarn := false, ring := List.replicate c.driftN 0, ringPos := 0,
             ringCnt := 0, ringSum := 0, lastMsgNs := 0, lastMsgValid := false, pullFactor := 0 }

/-- The invariant of a run holds at power-on of every well-formed configuration, `State.reset` among them. -/
def Obligations.InvAtPowerOn : Prop := (∀ c : Config, c.ok = true → Inv (State.powerOn c)) ∧ Inv State.reset

/-- Every step keeps the invariant, from every state that has it: the sizes follow the latency code (R14, R15), the rate
code is never reserved (R63), a draining port is masked (R20), no illegal configuration value is stored (R23), without a
module the TcoRuntime is at reset (R24), and so is the configuration of a device that is up (R215), stored codes are
clean (R25), armed output runs (R179), the drift ring's sum is the sum of its slots (R31), the frame count is a multiple
of 32 (R135), and the last words written to `CONTROL`, `TCO_CTL` and `TCO_CTL2` are what the state says (R12, R28). That "at reset" takes
in `out_warn` after a shutdown is the model's choice between R24 with R222 and R29, R234, R261: log 25. -/
def Obligations.EveryStepKeepsInv : Prop := ∀ s t : State, Inv s → step s = .next t → Inv t
end

