-- ==== Sys2Proof/Laws/State.lean ====
section
/-! SUPPORT. One lemma for each field of the state after each update: what the update leaves and what it puts there. -/

namespace Sys2Proof.Machine

/-! ### `emit` -/

@[simp] theorem emit_conf (e : Event) (s : State) : (emit e s).conf = s.conf := rfl

@[simp] theorem emit_devUp (e : Event) (s : State) : (emit e s).devUp = s.devUp := rfl

@[simp] theorem emit_hw (e : Event) (s : State) : (emit e s).hw = s.hw := rfl

@[simp] theorem emit_fc (e : Event) (s : State) : (emit e s).fc = s.fc := rfl

@[simp] theorem emit_sch (e : Event) (s : State) : (emit e s).sch = s.sch := rfl

@[simp] theorem emit_cfg (e : Event) (s : State) : (emit e s).cfg = s.cfg := rfl

@[simp] theorem emit_rt (e : Event) (s : State) : (emit e s).rt = s.rt := rfl

@[simp] theorem emit_env (e : Event) (s : State) : (emit e s).env = s.env := rfl

@[simp] theorem emit_port (e : Event) (s : State) : (emit e s).port = s.port := rfl

@[simp] theorem emit_events (e : Event) (s : State) : (emit e s).events = s.events ++ [e] := rfl

@[simp] theorem emit_results (e : Event) (s : State) : (emit e s).results = s.results := rfl

/-! ### `regWrite` -/

@[simp] theorem regWrite_conf (r : WriteReg) (v : Word) (s : State) : (regWrite r v s).conf = s.conf := rfl

@[simp] theorem regWrite_devUp (r : WriteReg) (v : Word) (s : State) : (regWrite r v s).devUp = s.devUp := rfl

@[simp] theorem regWrite_hw (r : WriteReg) (v : Word) (s : State) : (regWrite r v s).hw = s.hw := rfl

@[simp] theorem regWrite_fc (r : WriteReg) (v : Word) (s : State) : (regWrite r v s).fc = s.fc := rfl

@[simp] theorem regWrite_sch (r : WriteReg) (v : Word) (s : State) : (regWrite r v s).sch = s.sch := rfl

@[simp] theorem regWrite_cfg (r : WriteReg) (v : Word) (s : State) : (regWrite r v s).cfg = s.cfg := rfl

@[simp] theorem regWrite_rt (r : WriteReg) (v : Word) (s : State) : (regWrite r v s).rt = s.rt := rfl

@[simp] theorem regWrite_env (r : WriteReg) (v : Word) (s : State) : (regWrite r v s).env = s.env := rfl

@[simp] theorem regWrite_port (r : WriteReg) (v : Word) (s : State) : (regWrite r v s).port = s.port := rfl

@[simp] theorem regWrite_events (r : WriteReg) (v : Word) (s : State) :
    (regWrite r v s).events = s.events ++ [.regwrite r v] := rfl

@[simp] theorem regWrite_results (r : WriteReg) (v : Word) (s : State) : (regWrite r v s).results = s.results := rfl

/-! ### `tcoWrite` -/

@[simp] theorem tcoWrite_conf (r : WriteReg) (v : Word) (s : State) : (tcoWrite r v s).conf = s.conf := rfl

@[simp] theorem tcoWrite_devUp (r : WriteReg) (v : Word) (s : State) : (tcoWrite r v s).devUp = s.devUp := rfl

@[simp] theorem tcoWrite_hw (r : WriteReg) (v : Word) (s : State) : (tcoWrite r v s).hw = s.hw := rfl

@[simp] theorem tcoWrite_fc (r : WriteReg) (v : Word) (s : State) : (tcoWrite r v s).fc = s.fc := rfl

@[simp] theorem tcoWrite_sch (r : WriteReg) (v : Word) (s : State) : (tcoWrite r v s).sch = s.sch := rfl

@[simp] theorem tcoWrite_cfg (r : WriteReg) (v : Word) (s : State) : (tcoWrite r v s).cfg = s.cfg := rfl

@[simp] theorem tcoWrite_rt (r : WriteReg) (v : Word) (s : State) : (tcoWrite r v s).rt = s.rt := rfl

@[simp] theorem tcoWrite_env (r : WriteReg) (v : Word) (s : State) : (tcoWrite r v s).env = s.env := rfl

@[simp] theorem tcoWrite_port (r : WriteReg) (v : Word) (s : State) : (tcoWrite r v s).port = s.port := rfl

@[simp] theorem tcoWrite_events (r : WriteReg) (v : Word) (s : State) :
    (tcoWrite r v s).events = s.events ++ [.regwrite r (v &&& tcoMask)] := rfl

@[simp] theorem tcoWrite_results (r : WriteReg) (v : Word) (s : State) : (tcoWrite r v s).results = s.results := rfl

/-! ### `pushTcoCtl` -/

@[simp] theorem pushTcoCtl_conf (s : State) : (pushTcoCtl s).conf = s.conf := rfl

@[simp] theorem pushTcoCtl_devUp (s : State) : (pushTcoCtl s).devUp = s.devUp := rfl

@[simp] theorem pushTcoCtl_hw (s : State) : (pushTcoCtl s).hw = s.hw := rfl

@[simp] theorem pushTcoCtl_fc (s : State) : (pushTcoCtl s).fc = s.fc := rfl

@[simp] theorem pushTcoCtl_sch (s : State) : (pushTcoCtl s).sch = s.sch := rfl

@[simp] theorem pushTcoCtl_cfg (s : State) : (pushTcoCtl s).cfg = s.cfg := rfl

@[simp] theorem pushTcoCtl_rt (s : State) : (pushTcoCtl s).rt = s.rt := rfl

@[simp] theorem pushTcoCtl_env (s : State) : (pushTcoCtl s).env = s.env := rfl

@[simp] theorem pushTcoCtl_port (s : State) : (pushTcoCtl s).port = s.port := rfl

@[simp] theorem pushTcoCtl_events (s : State) :
    (pushTcoCtl s).events = s.events ++ [.regwrite .tcoCtl (tcoCtlWord s.cfg s.rt &&& tcoMask)] := rfl

@[simp] theorem pushTcoCtl_results (s : State) : (pushTcoCtl s).results = s.results := rfl

/-! ### `pushTcoCtl2` -/

@[simp] theorem pushTcoCtl2_conf (s : State) : (pushTcoCtl2 s).conf = s.conf := rfl

@[simp] theorem pushTcoCtl2_devUp (s : State) : (pushTcoCtl2 s).devUp = s.devUp := rfl

@[simp] theorem pushTcoCtl2_hw (s : State) : (pushTcoCtl2 s).hw = s.hw := rfl

@[simp] theorem pushTcoCtl2_fc (s : State) : (pushTcoCtl2 s).fc = s.fc := rfl

@[simp] theorem pushTcoCtl2_sch (s : State) : (pushTcoCtl2 s).sch = s.sch := rfl

@[simp] theorem pushTcoCtl2_cfg (s : State) : (pushTcoCtl2 s).cfg = s.cfg := rfl

@[simp] theorem pushTcoCtl2_rt (s : State) : (pushTcoCtl2 s).rt = s.rt := rfl

@[simp] theorem pushTcoCtl2_env (s : State) : (pushTcoCtl2 s).env = s.env := rfl

@[simp] theorem pushTcoCtl2_port (s : State) : (pushTcoCtl2 s).port = s.port := rfl

@[simp] theorem pushTcoCtl2_events (s : State) :
    (pushTcoCtl2 s).events = s.events ++ [.regwrite .tcoCtl2 (tcoCtl2Word s.cfg &&& tcoMask)] := rfl

@[simp] theorem pushTcoCtl2_results (s : State) : (pushTcoCtl2 s).results = s.results := rfl

/-! ### `afterRead` -/

@[simp] theorem afterRead_conf (r : ReadReg) (s : State) : (afterRead r s).conf = s.conf := rfl

@[simp] theorem afterRead_devUp (r : ReadReg) (s : State) : (afterRead r s).devUp = s.devUp := rfl

@[simp] theorem afterRead_hw (r : ReadReg) (s : State) : (afterRead r s).hw = s.hw := rfl

@[simp] theorem afterRead_fc (r : ReadReg) (s : State) : (afterRead r s).fc = s.fc := rfl

@[simp] theorem afterRead_sch (r : ReadReg) (s : State) : (afterRead r s).sch = s.sch := rfl

@[simp] theorem afterRead_cfg (r : ReadReg) (s : State) : (afterRead r s).cfg = s.cfg := rfl

@[simp] theorem afterRead_rt (r : ReadReg) (s : State) : (afterRead r s).rt = s.rt := rfl

@[simp] theorem afterRead_env (r : ReadReg) (s : State) : (afterRead r s).env = envAfterRead r s.env := rfl

@[simp] theorem afterRead_port (r : ReadReg) (s : State) : (afterRead r s).port = s.port := rfl

@[simp] theorem afterRead_events (r : ReadReg) (s : State) : (afterRead r s).events = s.events := rfl

@[simp] theorem afterRead_results (r : ReadReg) (s : State) : (afterRead r s).results = s.results := rfl

/-! ### `afterNow` -/

@[simp] theorem afterNow_conf (s : State) : (afterNow s).conf = s.conf := rfl

@[simp] theorem afterNow_devUp (s : State) : (afterNow s).devUp = s.devUp := rfl

@[simp] theorem afterNow_hw (s : State) : (afterNow s).hw = s.hw := rfl

@[simp] theorem afterNow_fc (s : State) : (afterNow s).fc = s.fc := rfl

@[simp] theorem afterNow_sch (s : State) : (afterNow s).sch = s.sch := rfl

@[simp] theorem afterNow_cfg (s : State) : (afterNow s).cfg = s.cfg := rfl

@[simp] theorem afterNow_rt (s : State) : (afterNow s).rt = s.rt := rfl

@[simp] theorem afterNow_env (s : State) :
    (afterNow s).env = { s.env with now := s.env.now.tail, draws := drawsAfter s.env.now s.env.draws } := rfl

@[simp] theorem afterNow_port (s : State) : (afterNow s).port = s.port := rfl

@[simp] theorem afterNow_events (s : State) : (afterNow s).events = s.events := rfl

@[simp] theorem afterNow_results (s : State) : (afterNow s).results = s.results := rfl

/-! ### `afterWall` -/

@[simp] theorem afterWall_conf (s : State) : (afterWall s).conf = s.conf := rfl

@[simp] theorem afterWall_devUp (s : State) : (afterWall s).devUp = s.devUp := rfl

@[simp] theorem afterWall_hw (s : State) : (afterWall s).hw = s.hw := rfl

@[simp] theorem afterWall_fc (s : State) : (afterWall s).fc = s.fc := rfl

@[simp] theorem afterWall_sch (s : State) : (afterWall s).sch = s.sch := rfl

@[simp] theorem afterWall_cfg (s : State) : (afterWall s).cfg = s.cfg := rfl

@[simp] theorem afterWall_rt (s : State) : (afterWall s).rt = s.rt := rfl

@[simp] theorem afterWall_env (s : State) :
    (afterWall s).env = { s.env with wall := s.env.wall.tail, draws := drawsAfter s.env.wall s.env.draws } := rfl

@[simp] theorem afterWall_port (s : State) : (afterWall s).port = s.port := rfl

@[simp] theorem afterWall_events (s : State) : (afterWall s).events = s.events := rfl

@[simp] theorem afterWall_results (s : State) : (afterWall s).results = s.results := rfl

/-! ### `answered` -/

@[simp] theorem answered_conf (st : Status) (c : Bool) (v : Value) (s : State) :
    (s.answered st c v).conf = s.conf := rfl

@[simp] theorem answered_devUp (st : Status) (c : Bool) (v : Value) (s : State) :
    (s.answered st c v).devUp = s.devUp := rfl

@[simp] theorem answered_hw (st : Status) (c : Bool) (v : Value) (s : State) : (s.answered st c v).hw = s.hw := rfl

@[simp] theorem answered_fc (st : Status) (c : Bool) (v : Value) (s : State) : (s.answered st c v).fc = s.fc := rfl

@[simp] theorem answered_sch (st : Status) (c : Bool) (v : Value) (s : State) : (s.answered st c v).sch = s.sch := rfl

@[simp] theorem answered_cfg (st : Status) (c : Bool) (v : Value) (s : State) : (s.answered st c v).cfg = s.cfg := rfl

@[simp] theorem answered_rt (st : Status) (c : Bool) (v : Value) (s : State) : (s.answered st c v).rt = s.rt := rfl

@[simp] theorem answered_env (st : Status) (c : Bool) (v : Value) (s : State) : (s.answered st c v).env = s.env := rfl

@[simp] theorem answered_port (st : Status) (c : Bool) (v : Value) (s : State) :
    (s.answered st c v).port = s.port := rfl

@[simp] theorem answered_events (st : Status) (c : Bool) (v : Value) (s : State) :
    (s.answered st c v).events = s.events := rfl

@[simp] theorem answered_results (st : Status) (c : Bool) (v : Value) (s : State) :
    (s.answered st c v).results = s.results ++ [⟨st, c, v⟩] := rfl

/-! ### `setPending` -/

@[simp] theorem setPending_conf (k : PendKind) (c : Word) (t : U64) (s : State) :
    (setPending k c t s).conf = s.conf := rfl

@[simp] theorem setPending_devUp (k : PendKind) (c : Word) (t : U64) (s : State) :
    (setPending k c t s).devUp = s.devUp := rfl

@[simp] theorem setPending_hw (k : PendKind) (c : Word) (t : U64) (s : State) : (setPending k c t s).hw = s.hw := rfl

@[simp] theorem setPending_fc (k : PendKind) (c : Word) (t : U64) (s : State) : (setPending k c t s).fc = s.fc := rfl

@[simp] theorem setPending_sch (k : PendKind) (c : Word) (t : U64) (s : State) :
    (setPending k c t s).sch = s.sch := rfl

@[simp] theorem setPending_cfg (k : PendKind) (c : Word) (t : U64) (s : State) :
    (setPending k c t s).cfg = s.cfg := rfl

@[simp] theorem setPending_rt (k : PendKind) (c : Word) (t : U64) (s : State) :
    (setPending k c t s).rt = { s.rt with pendKind := k, pendCode := c, pendTarget := t } := rfl

@[simp] theorem setPending_env (k : PendKind) (c : Word) (t : U64) (s : State) :
    (setPending k c t s).env = s.env := rfl

@[simp] theorem setPending_port (k : PendKind) (c : Word) (t : U64) (s : State) :
    (setPending k c t s).port = s.port := rfl

@[simp] theorem setPending_events (k : PendKind) (c : Word) (t : U64) (s : State) :
    (setPending k c t s).events = s.events := rfl

@[simp] theorem setPending_results (k : PendKind) (c : Word) (t : U64) (s : State) :
    (setPending k c t s).results = s.results := rfl

/-! ### `clearPending` -/

@[simp] theorem clearPending_conf (s : State) : (clearPending s).conf = s.conf := rfl

@[simp] theorem clearPending_devUp (s : State) : (clearPending s).devUp = s.devUp := rfl

@[simp] theorem clearPending_hw (s : State) : (clearPending s).hw = s.hw := rfl

@[simp] theorem clearPending_fc (s : State) : (clearPending s).fc = s.fc := rfl

@[simp] theorem clearPending_sch (s : State) : (clearPending s).sch = s.sch := rfl

@[simp] theorem clearPending_cfg (s : State) : (clearPending s).cfg = s.cfg := rfl

@[simp] theorem clearPending_rt (s : State) :
    (clearPending s).rt = { s.rt with pendKind := .none, pendCode := 0, pendTarget := 0 } := rfl

@[simp] theorem clearPending_env (s : State) : (clearPending s).env = s.env := rfl

@[simp] theorem clearPending_port (s : State) : (clearPending s).port = s.port := rfl

@[simp] theorem clearPending_events (s : State) : (clearPending s).events = s.events := rfl

@[simp] theorem clearPending_results (s : State) : (clearPending s).results = s.results := rfl

/-! ### `fcUpdate` -/

@[simp] theorem fcUpdate_conf (s : State) : (fcUpdate s).conf = s.conf := rfl

@[simp] theorem fcUpdate_devUp (s : State) : (fcUpdate s).devUp = s.devUp := rfl

@[simp] theorem fcUpdate_hw (s : State) : (fcUpdate s).hw = s.hw := rfl

@[simp] theorem fcUpdate_fc (s : State) :
    (fcUpdate s).fc = fcAdvance s.fc (hwPointer s.conf s.fc.hwBufferSize s.hw.status) := rfl

@[simp] theorem fcUpdate_sch (s : State) : (fcUpdate s).sch = s.sch := rfl

@[simp] theorem fcUpdate_cfg (s : State) : (fcUpdate s).cfg = s.cfg := rfl

@[simp] theorem fcUpdate_rt (s : State) : (fcUpdate s).rt = s.rt := rfl

@[simp] theorem fcUpdate_env (s : State) : (fcUpdate s).env = s.env := rfl

@[simp] theorem fcUpdate_port (s : State) : (fcUpdate s).port = s.port := rfl

@[simp] theorem fcUpdate_events (s : State) : (fcUpdate s).events = s.events := rfl

@[simp] theorem fcUpdate_results (s : State) : (fcUpdate s).results = s.results := rfl

/-! ### `takeSnapshot` -/

@[simp] theorem takeSnapshot_conf (s : State) : (takeSnapshot s).conf = s.conf := rfl

@[simp] theorem takeSnapshot_devUp (s : State) : (takeSnapshot s).devUp = s.devUp := rfl

@[simp] theorem takeSnapshot_hw (s : State) :
    (takeSnapshot s).hw = { s.hw with status := readAnswer .status s } := rfl

@[simp] theorem takeSnapshot_fc (s : State) : (takeSnapshot s).fc = s.fc := rfl

@[simp] theorem takeSnapshot_sch (s : State) : (takeSnapshot s).sch = s.sch := rfl

@[simp] theorem takeSnapshot_cfg (s : State) : (takeSnapshot s).cfg = s.cfg := rfl

@[simp] theorem takeSnapshot_rt (s : State) : (takeSnapshot s).rt = s.rt := rfl

@[simp] theorem takeSnapshot_env (s : State) : (takeSnapshot s).env = envAfterRead .status s.env := rfl

@[simp] theorem takeSnapshot_port (s : State) : (takeSnapshot s).port = s.port := rfl

@[simp] theorem takeSnapshot_events (s : State) : (takeSnapshot s).events = s.events := rfl

@[simp] theorem takeSnapshot_results (s : State) : (takeSnapshot s).results = s.results := rfl

/-! ### `acknowledge` -/

@[simp] theorem acknowledge_conf (s : State) : (acknowledge s).conf = s.conf := rfl

@[simp] theorem acknowledge_devUp (s : State) : (acknowledge s).devUp = s.devUp := rfl

@[simp] theorem acknowledge_hw (s : State) : (acknowledge s).hw = s.hw := rfl

@[simp] theorem acknowledge_fc (s : State) : (acknowledge s).fc = s.fc := rfl

@[simp] theorem acknowledge_sch (s : State) :
    (acknowledge s).sch = { s.sch with irqCount := s.sch.irqCount + 1 } := rfl

@[simp] theorem acknowledge_cfg (s : State) : (acknowledge s).cfg = s.cfg := rfl

@[simp] theorem acknowledge_rt (s : State) : (acknowledge s).rt = s.rt := rfl

@[simp] theorem acknowledge_env (s : State) : (acknowledge s).env = s.env := rfl

@[simp] theorem acknowledge_port (s : State) : (acknowledge s).port = s.port := rfl

@[simp] theorem acknowledge_events (s : State) : (acknowledge s).events = s.events ++ [.regwrite .irqAck 0] := rfl

@[simp] theorem acknowledge_results (s : State) : (acknowledge s).results = s.results := rfl

/-! ### `publishInbound` -/

@[simp] theorem publishInbound_conf (a b : Word) (sf : Nat) (s : State) :
    (publishInbound a b sf s).conf = s.conf := rfl

@[simp] theorem publishInbound_devUp (a b : Word) (sf : Nat) (s : State) :
    (publishInbound a b sf s).devUp = s.devUp := rfl

@[simp] theorem publishInbound_hw (a b : Word) (sf : Nat) (s : State) : (publishInbound a b sf s).hw = s.hw := rfl

@[simp] theorem publishInbound_fc (a b : Word) (sf : Nat) (s : State) : (publishInbound a b sf s).fc = s.fc := rfl

@[simp] theorem publishInbound_sch (a b : Word) (sf : Nat) (s : State) : (publishInbound a b sf s).sch = s.sch := rfl

@[simp] theorem publishInbound_cfg (a b : Word) (sf : Nat) (s : State) : (publishInbound a b sf s).cfg = s.cfg := rfl

@[simp] theorem publishInbound_env (a b : Word) (sf : Nat) (s : State) : (publishInbound a b sf s).env = s.env := rfl

@[simp] theorem publishInbound_port (a b : Word) (sf : Nat) (s : State) :
    (publishInbound a b sf s).port = s.port := rfl

@[simp] theorem publishInbound_events (a b : Word) (sf : Nat) (s : State) :
    (publishInbound a b sf s).events = s.events := rfl

@[simp] theorem publishInbound_results (a b : Word) (sf : Nat) (s : State) :
    (publishInbound a b sf s).results = s.results := rfl

/-! ### `armOutput` -/

@[simp] theorem armOutput_conf (p : Plan) (o : Int) (d : Bool) (s : State) : (armOutput p o d s).conf = s.conf := rfl

@[simp] theorem armOutput_devUp (p : Plan) (o : Int) (d : Bool) (s : State) :
    (armOutput p o d s).devUp = s.devUp := rfl

@[simp] theorem armOutput_hw (p : Plan) (o : Int) (d : Bool) (s : State) : (armOutput p o d s).hw = s.hw := rfl

@[simp] theorem armOutput_fc (p : Plan) (o : Int) (d : Bool) (s : State) : (armOutput p o d s).fc = s.fc := rfl

@[simp] theorem armOutput_sch (p : Plan) (o : Int) (d : Bool) (s : State) : (armOutput p o d s).sch = s.sch := rfl

@[simp] theorem armOutput_cfg (p : Plan) (o : Int) (d : Bool) (s : State) :
    (armOutput p o d s).cfg = { s.cfg with run := true } := rfl

@[simp] theorem armOutput_env (p : Plan) (o : Int) (d : Bool) (s : State) : (armOutput p o d s).env = s.env := rfl

@[simp] theorem armOutput_port (p : Plan) (o : Int) (d : Bool) (s : State) : (armOutput p o d s).port = s.port := rfl

@[simp] theorem armOutput_events (p : Plan) (o : Int) (d : Bool) (s : State) :
    (armOutput p o d s).events = s.events := rfl

@[simp] theorem armOutput_results (p : Plan) (o : Int) (d : Bool) (s : State) :
    (armOutput p o d s).results = s.results := rfl

/-! ### `initDevice` -/

@[simp] theorem initDevice_conf (t : Bool) (s : State) : (initDevice t s).conf = s.conf := rfl

@[simp] theorem initDevice_devUp (t : Bool) (s : State) : (initDevice t s).devUp = true := rfl

@[simp] theorem initDevice_hw (t : Bool) (s : State) : (initDevice t s).hw = HwRegs.reset := rfl

@[simp] theorem initDevice_fc (t : Bool) (s : State) : (initDevice t s).fc = FrameCounter.reset s.conf := rfl

@[simp] theorem initDevice_sch (t : Bool) (s : State) : (initDevice t s).sch = Scheduler.reset := rfl

@[simp] theorem initDevice_cfg (t : Bool) (s : State) : (initDevice t s).cfg = TcoConfig.reset := rfl

@[simp] theorem initDevice_rt (t : Bool) (s : State) :
    (initDevice t s).rt = { TcoRuntime.reset s.conf with tcoPresent := t } := rfl

@[simp] theorem initDevice_env (t : Bool) (s : State) : (initDevice t s).env = s.env := rfl

@[simp] theorem initDevice_port (t : Bool) (s : State) : (initDevice t s).port = s.port := rfl

@[simp] theorem initDevice_events (t : Bool) (s : State) : (initDevice t s).events = s.events := rfl

@[simp] theorem initDevice_results (t : Bool) (s : State) : (initDevice t s).results = s.results := rfl

end Sys2Proof.Machine
end

