-- ==== Sys2Proof/Laws/Bits.lean ====
section
/-! SUPPORT. The register words bit by bit: the fields of the control word, of `TCO_CTL`, and the write mask. -/

namespace Sys2Proof.Machine

/-! ### The control word (spec/30_encoding.md R61) -/

/-- `ctl_set` replaces the field and leaves every other bit (R61). -/
theorem ctlSet_getLsbD (w : Word) (f : CtlField) (v b : Nat) (hb : b < 32) :
    (ctlSet w f v).getLsbD b =
      if ctlFieldLo f ≤ b ∧ b < ctlFieldLo f + ctlFieldWidth f then v.testBit (b - ctlFieldLo f) else w.getLsbD b := by
  have hm : (ctlFieldMask f).getLsbD b = decide (ctlFieldLo f ≤ b ∧ b < ctlFieldLo f + ctlFieldWidth f) := by
    simp only [ctlFieldMask, BitVec.getLsbD_ofNat, hb, decide_true, Bool.true_and, Nat.testBit_mul_two_pow,
      Nat.testBit_two_pow_sub_one]
    by_cases h : ctlFieldLo f ≤ b
    · simp [h]; omega
    · simp [h]
  simp only [ctlSet, BitVec.getLsbD_or, BitVec.getLsbD_and, BitVec.getLsbD_not, hm, hb, BitVec.getLsbD_shiftLeft,
    BitVec.getLsbD_ofNat, decide_true, Bool.true_and]
  by_cases h : ctlFieldLo f ≤ b ∧ b < ctlFieldLo f + ctlFieldWidth f
  · have : ¬ b < ctlFieldLo f := by omega
    have h2 : b - ctlFieldLo f < 32 := by omega
    simp [h, this, h2]
  · simp [h]

/-- The enable of a MIDI port is one bit. -/
theorem ctlSet_ieMidi_getLsbD (w : Word) (p v b : Nat) (hb : b < 32) :
    (ctlSet w (.ieMidi p) v).getLsbD b = if b = 22 + p then v.testBit 0 else w.getLsbD b := by
  rw [ctlSet_getLsbD w _ v b hb]
  by_cases h : b = 22 + p
  · simp [ctlFieldLo, ctlFieldWidth, h]
  · have h1 : ¬(22 + p ≤ b ∧ b < 22 + p + 1) := by omega
    simp only [ctlFieldLo, ctlFieldWidth, h, h1, if_false]

/-- A one-bit field is 0 exactly when its bit is. -/
theorem ctlGet_ieMidi_eq_zero (w : Word) (p : Nat) : ctlGet w (.ieMidi p) = 0 ↔ w.getLsbD (22 + p) = false := by
  have h : ctlGet w (.ieMidi p) = (w.getLsbD (22 + p)).toNat := by
    simp [ctlGet, bitField, ctlFieldLo, ctlFieldWidth, BitVec.getLsbD, Nat.testBit_eq_decide_div_mod_eq,
      Nat.shiftRight_eq_div_pow]
    rcases Nat.mod_two_eq_zero_or_one (w.toNat / 2 ^ (22 + p)) with h | h <;> simp [h]
  rw [h]; cases w.getLsbD (22 + p) <;> simp

/-- The rate code is four bits of the control word (R61). -/
theorem rateCode_getLsbD (w : Word) (b : Nat) : (rateCode w).getLsbD b = (decide (b < 4) && w.getLsbD (6 + b)) := by
  simp [rateCode]

/-- Two control words with the same rate bits have the same rate code. -/
theorem rateCode_congr (w w' : Word) (h : ∀ b, 6 ≤ b → b < 10 → w'.getLsbD b = w.getLsbD b) :
    rateCode w' = rateCode w := by
  apply BitVec.eq_of_getLsbD_eq
  intro b hb
  simp only [rateCode_getLsbD, hb, decide_true, Bool.true_and]
  exact h _ (by omega) (by omega)

/-- The latency code as a number (R61, R64). -/
theorem ctlGet_lat (w : Word) : ctlGet w .lat = w.toNat / 2 % 8 := by
  simp [ctlGet, bitField, ctlFieldLo, ctlFieldWidth, Nat.shiftRight_eq_div_pow]

/-- Two control words with the same latency bits have the same latency code. -/
theorem ctlGet_lat_congr (w w' : Word) (h : ∀ b, 1 ≤ b → b < 4 → w'.getLsbD b = w.getLsbD b) :
    ctlGet w' .lat = ctlGet w .lat := by
  have : w'.extractLsb' 1 3 = w.extractLsb' 1 3 := by
    apply BitVec.eq_of_getLsbD_eq
    intro b hb
    simp only [BitVec.getLsbD_extractLsb', hb, decide_true, Bool.true_and]
    exact h _ (by omega) (by omega)
  simp only [ctlGet, bitField, ctlFieldLo, ctlFieldWidth, this]

/-- The latency code after it was set (R98). -/
theorem ctlGet_lat_ctlSet (w : Word) (v : Nat) (hv : v < 8) : ctlGet (ctlSet w .lat v) .lat = v := by
  simp only [ctlGet, bitField, ctlFieldLo, ctlFieldWidth]
  apply Nat.eq_of_testBit_eq
  intro b
  change ((ctlSet w .lat v).extractLsb' 1 3).getLsbD b = _
  rw [BitVec.getLsbD_extractLsb']
  by_cases hb : b < 3
  · rw [ctlSet_getLsbD _ _ _ _ (by omega)]
    simp [ctlFieldLo, ctlFieldWidth, hb, show 1 + b < 4 by omega]
  · have : v < 2 ^ b := lt_of_lt_of_le hv (by simpa using Nat.pow_le_pow_right (n := 2) (by omega) (show 3 ≤ b by omega))
    simp [hb, Nat.testBit_lt_two_pow this]

/-- The control word of a shutdown: the run flag and every enable off, every other bit kept (46_config_status R222). -/
theorem stoppedCtl_getLsbD (n : Nat) (w : Word) (b : Nat) (hb : b < 32) :
    (stoppedCtl n w).getLsbD b = (w.getLsbD b && decide (b ≠ 0 ∧ b ≠ 5 ∧ ¬(22 ≤ b ∧ b < 22 + n))) := by
  induction n with
  | zero =>
    simp only [stoppedCtl, List.range_zero, List.foldl_nil, ctlSet_getLsbD _ _ _ _ hb, ctlFieldLo, ctlFieldWidth]
    by_cases h0 : b = 0
    · simp [h0]
    · by_cases h5 : b = 5
      · simp [h5]
      · have h6 : ¬(5 ≤ b ∧ b < 6) := by omega
        have h7 : ¬(22 ≤ b ∧ b < 22) := by omega
        simp [h0, h5, h6, h7]
  | succ n ih =>
    have hs : stoppedCtl (n + 1) w = ctlSet (stoppedCtl n w) (.ieMidi n) 0 := by
      simp [stoppedCtl, List.range_succ]
    rw [hs, ctlSet_ieMidi_getLsbD _ _ _ _ hb, ih]
    by_cases h : b = 22 + n
    · simp [h]
    · simp only [h, if_false]
      congr 1
      apply decide_eq_decide.mpr
      omega

/-! ### `TCO_CTL` and the write mask (R70, 20_memory R45) -/

/-- `TCO_CTL` bit by bit, as the table of R70 lays it out. -/
theorem tcoCtlWord_getLsbD (cfg : TcoConfig) (rt : TcoRuntime) (b : Nat) (hb : b < 32) :
    (tcoCtlWord cfg rt).getLsbD b =
      if b < 7 then rt.outOffset.getLsbD b
      else if b = 7 then false
      else if b < 15 then rt.outOffset.getLsbD (b - 1)
      else if b = 16 then rt.outArmed
      else if b = 17 then cfg.run
      else if b = 18 ∨ b = 19 then cfg.fpsCode.getLsbD (b - 18)
      else if b = 20 ∨ b = 21 then cfg.syncSrc.getLsbD (b - 20)
      else if b = 22 then cfg.term75
      else if b = 24 ∨ b = 25 then cfg.srateMode.getLsbD (b - 24)
      else if b = 26 ∨ b = 27 ∨ b = 28 then cfg.pull.getLsbD (b - 26)
      else if b = 29 then cfg.flywheel
      else false := by
  interval_cases b <;> simp [tcoCtlWord, pack14, flagAt]

/-- The write mask bit by bit. -/
theorem tcoMask_getLsbD (b : Nat) (hb : b < 32) :
    tcoMask.getLsbD b = decide (b ≠ 7 ∧ b ≠ 15 ∧ b ≠ 23 ∧ b ≠ 31) := by
  interval_cases b <;> decide

/-- "So that the mask leaves it unchanged" (R70). -/
@[simp] theorem tcoCtlWord_and_tcoMask (cfg : TcoConfig) (rt : TcoRuntime) :
    tcoCtlWord cfg rt &&& tcoMask = tcoCtlWord cfg rt := by
  apply BitVec.eq_of_getLsbD_eq
  intro b hb
  rw [BitVec.getLsbD_and, tcoCtlWord_getLsbD _ _ _ hb, tcoMask_getLsbD _ hb]
  interval_cases b <;> simp

/-- The word-clock word passes the mask too (R71). -/
@[simp] theorem tcoCtl2Word_and_tcoMask (cfg : TcoConfig) : tcoCtl2Word cfg &&& tcoMask = tcoCtl2Word cfg := by
  apply BitVec.eq_of_getLsbD_eq
  intro b hb
  rw [BitVec.getLsbD_and, tcoMask_getLsbD _ hb]
  interval_cases b <;> simp [tcoCtl2Word]

/-- A stored code passes the mask. -/
theorem ltcClean_and_tcoMask (c : Word) (h : c &&& ~~~ltcClean = 0) : c &&& tcoMask = c := by
  apply BitVec.eq_of_getLsbD_eq
  intro b hb
  have hz : (c &&& ~~~ltcClean).getLsbD b = false := by rw [h]; simp
  have hl : ltcClean.getLsbD b = decide (b ≠ 7 ∧ b ≠ 15 ∧ b ≠ 23 ∧ b ≠ 30 ∧ b ≠ 31) := by
    interval_cases b <;> decide
  rw [BitVec.getLsbD_and, BitVec.getLsbD_not, hl] at hz
  rw [BitVec.getLsbD_and, tcoMask_getLsbD _ hb]
  cases hc : c.getLsbD b
  · rfl
  · have h30 : ¬(b ≠ 7 ∧ b ≠ 15 ∧ b ≠ 23 ∧ b ≠ 31) → ¬(b ≠ 7 ∧ b ≠ 15 ∧ b ≠ 23 ∧ b ≠ 30 ∧ b ≠ 31) := by tauto
    by_contra hne
    simp only [hc, hb, decide_true, Bool.true_and, Bool.not_eq_false', decide_eq_true_eq] at hz
    simp only [Bool.true_and, decide_eq_true_eq] at hne
    exact h30 hne hz

end Sys2Proof.Machine
end

