-- ==== Sys2Proof/Laws/Encoding.lean ====
section
/-! SUPPORT. The fields of a command word (spec/30_encoding.md R80): each can be read back, and with the reserved byte zero
they are the whole word; one operand slot at a time. -/

namespace Sys2Proof

/-- A bit of a command word made of its fields. -/
theorem commandWord_getLsbD (c : BitVec 80) (b a : U64) (op : BitVec 8) (i : Nat) :
    (commandWord c b a op).getLsbD i =
      if i < 8 then op.getLsbD i
      else if i < 16 then false
      else if i < 80 then a.getLsbD (i - 16)
      else if i < 144 then b.getLsbD (i - 80)
      else c.getLsbD (i - 144) := by
  simp only [commandWord, BitVec.getLsbD_append]
  by_cases h1 : i < 8
  · simp only [h1, if_true]
  · have e : i - 8 - 8 = i - 16 := by omega
    have e2 : i - 16 - 64 = i - 80 := by omega
    have e3 : i - 80 - 64 = i - 144 := by omega
    by_cases h2 : i < 16
    · simp only [h1, h2, if_false, show i - 8 < 8 by omega, if_true]; simp
    · by_cases h3 : i < 80
      · simp only [h1, h2, h3, if_false, show ¬i - 8 < 8 by omega, e, show i - 16 < 64 by omega, if_true]
      · by_cases h4 : i < 144
        · simp only [h1, h2, h3, h4, if_false, show ¬i - 8 < 8 by omega, e, show ¬i - 16 < 64 by omega, e2,
            show i - 80 < 64 by omega, if_true]
        · simp only [h1, h2, h3, h4, if_false, show ¬i - 8 < 8 by omega, e, show ¬i - 16 < 64 by omega, e2,
            show ¬i - 80 < 64 by omega, e3]

@[simp] theorem opOf_commandWord (c : BitVec 80) (b a : U64) (op : BitVec 8) : opOf (commandWord c b a op) = op := by
  apply BitVec.eq_of_getLsbD_eq
  intro i hi
  simp only [opOf, BitVec.getLsbD_extractLsb', commandWord_getLsbD, hi, Nat.zero_add, decide_true, Bool.true_and, if_true]

@[simp] theorem rsvOf_commandWord (c : BitVec 80) (b a : U64) (op : BitVec 8) : rsvOf (commandWord c b a op) = 0 := by
  apply BitVec.eq_of_getLsbD_eq
  intro i hi
  simp only [rsvOf, BitVec.getLsbD_extractLsb', commandWord_getLsbD, hi, show ¬8 + i < 8 by omega,
    show 8 + i < 16 by omega, decide_true, Bool.true_and, if_true, if_false]
  simp

@[simp] theorem slotA_commandWord (c : BitVec 80) (b a : U64) (op : BitVec 8) : slotA (commandWord c b a op) = a := by
  apply BitVec.eq_of_getLsbD_eq
  intro i hi
  simp only [slotA, BitVec.getLsbD_extractLsb', commandWord_getLsbD, hi, show ¬16 + i < 8 by omega,
    show ¬16 + i < 16 by omega, show 16 + i < 80 by omega, decide_true, Bool.true_and, if_true, if_false,
    Nat.add_sub_cancel_left]

@[simp] theorem slotB_commandWord (c : BitVec 80) (b a : U64) (op : BitVec 8) : slotB (commandWord c b a op) = b := by
  apply BitVec.eq_of_getLsbD_eq
  intro i hi
  simp only [slotB, BitVec.getLsbD_extractLsb', commandWord_getLsbD, hi, show ¬80 + i < 8 by omega,
    show ¬80 + i < 16 by omega, show ¬80 + i < 80 by omega, show 80 + i < 144 by omega, decide_true, Bool.true_and,
    if_true, if_false, Nat.add_sub_cancel_left]

@[simp] theorem slotC_commandWord (c : BitVec 80) (b a : U64) (op : BitVec 8) : slotC (commandWord c b a op) = c := by
  apply BitVec.eq_of_getLsbD_eq
  intro i hi
  simp only [slotC, BitVec.getLsbD_extractLsb', commandWord_getLsbD, hi, show ¬144 + i < 8 by omega,
    show ¬144 + i < 16 by omega, show ¬144 + i < 80 by omega, show ¬144 + i < 144 by omega, decide_true, Bool.true_and,
    if_false, Nat.add_sub_cancel_left]

/-- A word with a zero reserved byte is its four other fields. -/
theorem commandWord_fields (cw : CommandWord) (h : rsvOf cw = 0) :
    commandWord (slotC cw) (slotB cw) (slotA cw) (opOf cw) = cw := by
  apply BitVec.eq_of_getLsbD_eq
  intro i hi
  rw [commandWord_getLsbD]
  have hr : ∀ j, j < 8 → cw.getLsbD (8 + j) = false := by
    intro j hj
    have hz : (rsvOf cw).getLsbD j = (0 : BitVec 8).getLsbD j := by rw [h]
    rw [rsvOf, BitVec.getLsbD_extractLsb'] at hz
    simpa only [hj, decide_true, Bool.true_and, BitVec.getLsbD_zero, BitVec.ofNat_eq_ofNat] using hz
  simp only [opOf, slotA, slotB, slotC, BitVec.getLsbD_extractLsb']
  split
  · rename_i h1; simp only [h1, decide_true, Bool.true_and, Nat.zero_add]
  · split
    · rename_i h1 h2
      have := hr (i - 8) (by omega)
      rw [show 8 + (i - 8) = i by omega] at this
      exact this.symm
    · split
      · rename_i h1 h2 h3
        simp only [show i - 16 < 64 by omega, decide_true, Bool.true_and, show 16 + (i - 16) = i by omega]
      · split
        · simp only [show i - 80 < 64 by omega, decide_true, Bool.true_and, show 80 + (i - 80) = i by omega]
        · simp only [show i - 144 < 80 by omega, decide_true, Bool.true_and, show 144 + (i - 144) = i by omega]

/-- A slot is accepted exactly when it fits its bits (R81, R83). -/
theorem checkSlot_eq_ok (bits v : Nat) : checkSlot bits v = .ok () ↔ v < 2 ^ bits := by
  unfold checkSlot
  split
  · rename_i h; simp [h]
  · rename_i h; simp only [h, iff_false]; split <;> simp

/-- The three slots are accepted exactly when each fits. -/
theorem decodeSlots_eq_ok (cw : CommandWord) (ab bb cb : Nat) (i j : Instr) :
    decodeSlots cw ab bb cb i = .ok j ↔
      i = j ∧ (slotA cw).toNat < 2 ^ ab ∧ (slotB cw).toNat < 2 ^ bb ∧ (slotC cw).toNat < 2 ^ cb := by
  have ha := checkSlot_eq_ok ab (slotA cw).toNat
  have hb := checkSlot_eq_ok bb (slotB cw).toNat
  have hc := checkSlot_eq_ok cb (slotC cw).toNat
  unfold decodeSlots
  cases h1 : checkSlot ab (slotA cw).toNat <;> cases h2 : checkSlot bb (slotB cw).toNat <;>
    cases h3 : checkSlot cb (slotC cw).toNat <;> simp_all

end Sys2Proof
end

