-- ==== Sys2Proof/Laws/Ops.lean ====
section
/-! SUPPORT. What each shared operation can do, once: the steps of the timecode hook, the steps of `IRQ`, the setters. -/

namespace Sys2Proof.Machine

/-! ### Answering -/

/-- An answer is always a next state with one more result. -/
@[simp] theorem answer_eq (st : Status) (c : Bool) (v : Value) (s : State) : answer st c v s = .next (s.answered st c v) :=
  rfl

/-- Raising an error leaves the state the operation began in, answered (60_exceptions R231). -/
@[simp] theorem raise_eq (e : Status) (s : State) : raise e s = .next (s.answered e false .none) := rfl

/-- The neutral no-op leaves the state as it is, answered (60_exceptions R233). -/
@[simp] theorem neutral_eq (v : Value) (s : State) : neutral v s = .next (s.answered .neutral false v) := rfl

/-! ### The steps of `SCHEDULE` (44_ltc_encoder R165) -/

@[simp] theorem flagAt_false (lo : Nat) : flagAt false lo = 0#32 := by simp [flagAt]

theorem flagAt_six (b : Bool) : flagAt b 6 = if b then ltcDf else 0#32 := by cases b <;> decide

/-- The code written carries digits and the `DF` bit only (R175). -/
theorem outCode_clean (c : Word) (d : Bool) : ((c &&& ltcData) ||| flagAt d 6) &&& ~~~ltcClean = 0 := by
  rw [flagAt_six]
  have h1 : ltcData &&& ~~~ltcClean = 0#32 := by decide
  have h2 : ltcDf &&& ~~~ltcClean = 0#32 := by decide
  rw [BitVec.and_or_distrib_right, BitVec.and_assoc, h1]
  cases d <;> simp [h2]

/-- What `SCHEDULE` does once its inputs are there: the state with the output armed, and its events in their order. -/
theorem scheduleWith_eq (s : State) (r : SysRate) (cal : Int) :
    let p := schedulePlan s r
    let off := p.start - twoPeriodFloor s r - cal
    let drop := (fpsOf s.cfg.fpsCode).drop
    let wide := off < 0 ∨ 16383 < off
    let cfg : TcoConfig := { s.cfg with run := true }
    let rt : TcoRuntime := { s.rt with
      outCode := (p.code &&& ltcData) ||| flagAt drop 6
      outOffset := BitVec.ofInt 14 off
      outStart := BitVec.ofInt 64 p.start
      outAdjust := BitVec.ofInt 64 p.adjust
      outArmed := true
      outWarn := if wide then true else s.rt.outWarn
      pendKind := .none
      pendCode := 0
      pendTarget := 0 }
    scheduleWith s r cal = { s with
      cfg := cfg
      rt := rt
      env := (afterResolve s).env
      events := s.events ++ (if wide then [.warnOffset off] else []) ++
        [.regwrite .tcoLtcOut rt.outCode, .regwrite .tcoCtl (tcoCtlWord cfg rt)] } := by
  intro p off drop wide cfg rt
  have hc : rt.outCode &&& tcoMask = rt.outCode := ltcClean_and_tcoMask _ (outCode_clean p.code drop)
  have ha : afterResolve s = { s with env := (afterResolve s).env } := by unfold afterResolve; split <;> rfl
  unfold scheduleWith
  rw [ha]
  by_cases hw : wide
  · have hw' : p.start - twoPeriodFloor s r - cal < 0 ∨ 16383 < p.start - twoPeriodFloor s r - cal := hw
    simp only [warnOffsetRange, show schedulePlan s r = p from rfl, hw', if_true]
    simp [armOutput, writeOutput, pushTcoCtl, tcoWrite, regWrite, emit, cfg, rt, hw] at hc ⊢
    exact ⟨⟨rfl, rfl⟩, rfl, hc, rfl⟩
  · have hw' : ¬(p.start - twoPeriodFloor s r - cal < 0 ∨ 16383 < p.start - twoPeriodFloor s r - cal) := hw
    simp only [warnOffsetRange, show schedulePlan s r = p from rfl, hw', if_false]
    simp [armOutput, writeOutput, pushTcoCtl, tcoWrite, regWrite, emit, cfg, rt, hw] at hc ⊢
    exact ⟨⟨rfl, rfl⟩, hc, rfl⟩

/-- `SCHEDULE` either fails an assertion and only says so, or schedules (R182). -/
theorem schedule_cases (s : State) :
    schedule s = emit .faultAssert s ∨
      ∃ r cal, sysRate s.conf s.hw.ctl = some r ∧ calibAt s.conf s.cfg.fpsCode r.mode = some cal ∧
        schedule s = scheduleWith s r cal := by
  unfold schedule
  split
  · exact .inl rfl
  · rename_i r hr
    split
    · exact .inl rfl
    · rename_i cal hc; exact .inr ⟨r, cal, hr, hc, rfl⟩

/-! ### The steps of `TCO.ELAPSED` (43_ltc_decoder R148) -/

/-- `LATCH_CLEAR` clears the set flag and repeats the word, or does nothing (44_ltc_encoder R177). -/
theorem latchClear_cases (s : State) :
    (s.rt.outArmed = false ∧ latchClear s = s) ∨
      (s.rt.outArmed = true ∧ latchClear s = { s with
        rt := { s.rt with outArmed := false }
        events := s.events ++ [.regwrite .tcoCtl (tcoCtlWord s.cfg { s.rt with outArmed := false })] }) := by
  unfold latchClear
  cases h : s.rt.outArmed
  · exact .inl ⟨rfl, rfl⟩
  · refine .inr ⟨rfl, ?_⟩
    simp [pushTcoCtl, tcoWrite, regWrite, emit]

/-- `INBOUND_DECODE` fails its assertion and only says so, or reads each inbound register once and publishes (R150). -/
theorem inboundDecode_cases (s : State) :
    (sysRate s.conf s.hw.ctl = none ∧ inboundDecode s = emit .faultAssert s) ∨
      ∃ r, sysRate s.conf s.hw.ctl = some r ∧
        inboundDecode s = publishInbound (readAnswer .tcoLtcIn s) (readAnswer .tcoStat (afterRead .tcoLtcIn s)) r.sf
          (afterRead .tcoStat (afterRead .tcoLtcIn s)) := by
  unfold inboundDecode
  split
  · rename_i h; exact .inl ⟨h, rfl⟩
  · rename_i r h; exact .inr ⟨r, h, rfl⟩

/-- What a step of the hook leaves, and that it only adds events of its own kind. `HookStep s t` reads "from `s` the hook
may have come to `t`". -/
structure HookStep (s t : State) : Prop where
  conf : t.conf = s.conf
  devUp : t.devUp = s.devUp
  hw : t.hw = s.hw
  fc : t.fc = s.fc
  sch : t.sch = s.sch
  port : t.port = s.port
  results : t.results = s.results
  status : t.env.status = s.env.status
  now : t.env.now = s.env.now
  present : t.rt.tcoPresent = s.rt.tcoPresent
  events : ∃ es, t.events = s.events ++ es ∧ ∀ e ∈ es, isHookEvent e = true ∧
    ∀ r v, e = .regwrite r v → v &&& tcoMask = v

theorem HookStep.refl (s : State) : HookStep s s :=
  ⟨rfl, rfl, rfl, rfl, rfl, rfl, rfl, rfl, rfl, rfl, [], by simp, by simp⟩

theorem HookStep.trans {s t u : State} (h : HookStep s t) (k : HookStep t u) : HookStep s u := by
  obtain ⟨es, he, hs⟩ := h.events
  obtain ⟨fs, hf, gs⟩ := k.events
  exact ⟨k.conf.trans h.conf, k.devUp.trans h.devUp, k.hw.trans h.hw, k.fc.trans h.fc, k.sch.trans h.sch,
    k.port.trans h.port, k.results.trans h.results, k.status.trans h.status, k.now.trans h.now,
    k.present.trans h.present, es ++ fs, by rw [hf, he, List.append_assoc],
    fun e hm => (List.mem_append.mp hm).elim (hs e) (gs e)⟩

/-- A failed assertion inside the hook. -/
theorem HookStep.fault (s : State) : HookStep s (emit .faultAssert s) :=
  ⟨rfl, rfl, rfl, rfl, rfl, rfl, rfl, rfl, rfl, rfl, [.faultAssert], rfl, by simp [isHookEvent]⟩

theorem latchClear_hook (s : State) : HookStep s (latchClear s) := by
  rcases latchClear_cases s with ⟨-, h⟩ | ⟨-, h⟩ <;> rw [h]
  · exact .refl s
  · refine ⟨rfl, rfl, rfl, rfl, rfl, rfl, rfl, rfl, rfl, rfl, _, rfl, ?_⟩
    simp [isHookEvent]

theorem inboundDecode_hook (s : State) : HookStep s (inboundDecode s) := by
  rcases inboundDecode_cases s with ⟨-, h⟩ | ⟨r, -, h⟩ <;> rw [h]
  · exact .fault s
  · exact ⟨rfl, rfl, rfl, rfl, rfl, rfl, rfl, rfl, rfl, rfl, [], by simp, by simp⟩

theorem inboundStep_hook (s : State) : HookStep s (inboundStep s) := by
  unfold inboundStep
  split
  · exact inboundDecode_hook s
  · exact .refl s

theorem schedule_hook (s : State) : HookStep s (schedule s) := by
  rcases schedule_cases s with h | ⟨r, cal, -, -, h⟩ <;> rw [h]
  · exact .fault s
  · rw [scheduleWith_eq]
    refine ⟨rfl, rfl, rfl, rfl, rfl, rfl, rfl, ?_, ?_, rfl, _, List.append_assoc _ _ _, ?_⟩
    · simp only [afterResolve]; split <;> rfl
    · simp only [afterResolve]; split <;> rfl
    · intro e he
      have hc := ltcClean_and_tcoMask _ (outCode_clean (schedulePlan s r).code (fpsOf s.cfg.fpsCode).drop)
      rcases List.mem_append.mp he with h | h
      · split at h
        · simp only [List.mem_singleton] at h; subst h; simp [isHookEvent]
        · simp at h
      · simp only [List.mem_cons, List.not_mem_nil, or_false] at h
        rcases h with rfl | rfl
        · simp [isHookEvent, hc]
        · simp [isHookEvent]

theorem outboundStep_hook (s : State) : HookStep s (outboundStep s) := by
  unfold outboundStep
  split
  · exact .refl s
  · exact schedule_hook s

/-- What `TCO.ELAPSED` leaves: everything but the timecode record, the configuration's run flag, the inbound and wall
inputs, and the events it adds (R148). -/
theorem tcoElapsed_hook (s : State) : HookStep s (tcoElapsed s) := by
  unfold tcoElapsed
  split
  · exact .refl s
  · exact (latchClear_hook s).trans ((inboundStep_hook _).trans (outboundStep_hook _))

/-- Without a module the hook does nothing (R155). -/
theorem tcoElapsed_absent (s : State) (h : s.rt.tcoPresent = false) : tcoElapsed s = s := by simp [tcoElapsed, h]

/-! ### The steps of `IRQ` (41_interrupt_scheduler R112) -/

/-- The period notifications as a list of events (R114). -/
theorem notifyConsumers_eq (s : State) :
    notifyConsumers s = { s with events := s.events ++ (if s.sch.capPresent then [.notifyPcm .capture] else []) ++
      (if s.sch.pbPresent then [.notifyPcm .playback] else []) } := by
  unfold notifyConsumers
  cases h : s.sch.capPresent <;> cases h' : s.sch.pbPresent <;> simp [emit, h', List.append_assoc]

/-- The polling step: one sample of the clock, and a hand-off when it is due (R115). -/
theorem pollStep_eq (s : State) :
    pollStep s = { s with
      sch := { s.sch with
        lastPollNs := if pollDue s.conf s.sch (nowAnswer s) then nowAnswer s else s.sch.lastPollNs }
      env := (afterNow s).env
      events := s.events ++ (if pollDue s.conf s.sch (nowAnswer s) then [.deferStatusRefresh] else []) } := by
  unfold pollStep
  cases h : pollDue s.conf s.sch (nowAnswer s) <;> simp [afterNow, h, emit]

/-- The whole audio step after the hook: counter, polling stamp, and the events behind the hook's (R114, R115). -/
theorem audioStep_eq (s : State) :
    let h := tcoElapsed (fcUpdate (acknowledge s))
    let due := pollDue s.conf { s.sch with irqCount := s.sch.irqCount + 1 } (nowAnswer h)
    audioStep s = { h with
      sch := { s.sch with
        irqCount := s.sch.irqCount + 1
        lastPollNs := if due then nowAnswer h else s.sch.lastPollNs }
      env := (afterNow h).env
      events := h.events ++ (if s.sch.capPresent then [.notifyPcm .capture] else []) ++
        (if s.sch.pbPresent then [.notifyPcm .playback] else []) ++ (if due then [.deferStatusRefresh] else []) } := by
  intro h due
  have hk := tcoElapsed_hook (fcUpdate (acknowledge s))
  have hs : h.sch = { s.sch with irqCount := s.sch.irqCount + 1 } := hk.sch
  have hc : h.conf = s.conf := hk.conf
  unfold audioStep
  rw [pollStep_eq, notifyConsumers_eq]
  simp only [show tcoElapsed (fcUpdate (acknowledge s)) = h from rfl, hs, hc]
  rfl

/-- One mark of a port, bit by bit. -/
theorem midiMark_eq (s : State) (p : Nat) :
    ∃ ctl pend, midiMark s p = { s with hw := { s.hw with ctl := ctl }, sch := { s.sch with midiPending := pend } } ∧
      (∀ b, b < 32 → (ctl.getLsbD b = true ↔
        s.hw.ctl.getLsbD b = true ∧ ¬(statusMidi s.conf s.hw.status p = true ∧ b = 22 + p))) ∧
      (∀ q, q < 4 → (midiPendingAt pend q = true ↔
        midiPendingAt s.sch.midiPending q = true ∨ (statusMidi s.conf s.hw.status p = true ∧ q = p))) := by
  unfold midiMark
  cases h : statusMidi s.conf s.hw.status p
  · exact ⟨s.hw.ctl, s.sch.midiPending, by simp, by simp, by simp⟩
  · refine ⟨ctlSet s.hw.ctl (.ieMidi p) 0, setMidiPending s.sch.midiPending p true, by simp, ?_, ?_⟩
    · intro b hb
      rw [ctlSet_ieMidi_getLsbD _ _ _ _ hb]
      by_cases hp : b = 22 + p <;> simp [hp]
    · intro q hq
      by_cases hp : q = p
      · subst hp; simp [midiPendingAt, setMidiPending, hq]
      · have : p ≠ q := fun h => hp h.symm
        simp [midiPendingAt, setMidiPending, hp, this]

/-- The marks of the first `n` ports together (R116). -/
theorem midiMarks_eq (n : Nat) (s : State) :
    ∃ ctl pend, (List.range n).foldl midiMark s =
        { s with hw := { s.hw with ctl := ctl }, sch := { s.sch with midiPending := pend } } ∧
      (∀ b, b < 32 → (ctl.getLsbD b = true ↔
        s.hw.ctl.getLsbD b = true ∧ ¬∃ p, p < n ∧ statusMidi s.conf s.hw.status p = true ∧ b = 22 + p)) ∧
      (∀ q, q < 4 → (midiPendingAt pend q = true ↔
        midiPendingAt s.sch.midiPending q = true ∨ (q < n ∧ statusMidi s.conf s.hw.status q = true))) := by
  induction n with
  | zero => exact ⟨s.hw.ctl, s.sch.midiPending, by simp, by simp, by simp⟩
  | succ n ih =>
    obtain ⟨ctl, pend, he, hc, hp⟩ := ih
    rw [List.range_succ, List.foldl_append, he]
    obtain ⟨ctl', pend', he', hc', hp'⟩ :=
      midiMark_eq { s with hw := { s.hw with ctl := ctl }, sch := { s.sch with midiPending := pend } } n
    refine ⟨ctl', pend', by simpa using he', ?_, ?_⟩
    · intro b hb
      rw [hc' b hb, hc b hb]
      constructor
      · rintro ⟨⟨h1, h2⟩, h3⟩
        refine ⟨h1, ?_⟩
        rintro ⟨p, hpn, hs, hbp⟩
        rcases Nat.lt_succ_iff_lt_or_eq.mp hpn with hlt | rfl
        · exact h2 ⟨p, hlt, hs, hbp⟩
        · exact h3 ⟨hs, hbp⟩
      · rintro ⟨h1, h2⟩
        exact ⟨⟨h1, fun ⟨p, hpn, hs, hbp⟩ => h2 ⟨p, by omega, hs, hbp⟩⟩, fun ⟨hs, hbp⟩ => h2 ⟨n, by omega, hs, hbp⟩⟩
    · intro q hq
      rw [hp' q hq, hp q hq]
      constructor
      · rintro ((h | ⟨h1, h2⟩) | ⟨h1, rfl⟩)
        · exact .inl h
        · exact .inr ⟨by omega, h2⟩
        · exact .inr ⟨by omega, h1⟩
      · rintro (h | ⟨h1, h2⟩)
        · exact .inl (.inl h)
        · rcases Nat.lt_succ_iff_lt_or_eq.mp h1 with hlt | rfl
          · exact .inl (.inr ⟨hlt, h2⟩)
          · exact .inr ⟨h2, rfl⟩

/-- A port that does not exist never shows data (30_encoding R62). -/
theorem statusMidi_eq_true (c : Config) (st : Word) (p : Nat) :
    statusMidi c st p = true ↔ p < c.nMidi ∧ st.getLsbD (c.irqMidiBit + p) = true := by
  simp [statusMidi]

/-- `any_midi` (R111). -/
theorem anyMidi_eq_true (c : Config) (st : Word) :
    anyMidi c st = true ↔ ∃ p, p < c.nMidi ∧ st.getLsbD (c.irqMidiBit + p) = true := by
  simp only [anyMidi, List.any_eq_true, List.mem_range, statusMidi_eq_true]
  exact ⟨fun ⟨p, _, h⟩ => ⟨p, h⟩, fun ⟨p, h⟩ => ⟨p, h.1, h⟩⟩

/-- What the MIDI step does: enables cleared, ports marked, one write of `CONTROL`, one hand-off (R116). -/
theorem midiStep_eq (s : State) :
    ∃ ctl pend, midiStep s = { s with
        hw := { s.hw with ctl := ctl }
        sch := { s.sch with midiPending := pend }
        events := s.events ++ [.regwrite .control ctl, .deferMidiDrain] } ∧
      (∀ b, b < 32 → (ctl.getLsbD b = true ↔
        s.hw.ctl.getLsbD b = true ∧ ¬∃ p, statusMidi s.conf s.hw.status p = true ∧ b = 22 + p)) ∧
      (∀ q, q < 4 → (midiPendingAt pend q = true ↔
        midiPendingAt s.sch.midiPending q = true ∨ statusMidi s.conf s.hw.status q = true)) := by
  obtain ⟨ctl, pend, he, hc, hp⟩ := midiMarks_eq s.conf.nMidi s
  refine ⟨ctl, pend, ?_, ?_, ?_⟩
  · simp only [midiStep, he]; simp [emit, regWrite]
  · intro b hb
    rw [hc b hb]
    have : (∃ p, p < s.conf.nMidi ∧ statusMidi s.conf s.hw.status p = true ∧ b = 22 + p) ↔
        ∃ p, statusMidi s.conf s.hw.status p = true ∧ b = 22 + p :=
      ⟨fun ⟨p, _, h⟩ => ⟨p, h⟩, fun ⟨p, h⟩ => ⟨p, ((statusMidi_eq_true _ _ _).mp h.1).1, h⟩⟩
    rw [this]
  · intro q hq
    rw [hp q hq]
    have : (q < s.conf.nMidi ∧ statusMidi s.conf s.hw.status q = true) ↔ statusMidi s.conf s.hw.status q = true :=
      ⟨fun h => h.2, fun h => ⟨((statusMidi_eq_true _ _ _).mp h).1, h⟩⟩
    rw [this]

/-! ### The setter template (46_config_status R200) -/

/-- The four ways a setter of the template ends. -/
theorem cfgSetter_cases (legalMax old : Nat) (store push : State → State) (id : BitVec 8) (v : U64) (s : State) :
    (tcoUnavailable s = true ∧ cfgSetter legalMax old store push id v s = .next (s.answered .neutral false .none)) ∨
    (tcoUnavailable s = false ∧ legalMax < v.toNat ∧
      cfgSetter legalMax old store push id v s = .next (s.answered .inval false .none)) ∨
    (tcoUnavailable s = false ∧ v.toNat ≤ legalMax ∧ v.toNat = old ∧
      cfgSetter legalMax old store push id v s = .next (s.answered .ok false .none)) ∨
    (tcoUnavailable s = false ∧ v.toNat ≤ legalMax ∧ v.toNat ≠ old ∧
      cfgSetter legalMax old store push id v s =
        .next ((emit (.notifyCtl id) (push (store s))).answered .ok true .none)) := by
  unfold cfgSetter
  cases h : tcoUnavailable s
  · by_cases h1 : legalMax < v.toNat
    · exact .inr (.inl ⟨rfl, h1, by simp [h1]⟩)
    · by_cases h2 : v.toNat = old
      · exact .inr (.inr (.inl ⟨rfl, by omega, h2, by simp [h2, h2 ▸ h1]⟩))
      · exact .inr (.inr (.inr ⟨rfl, by omega, h2, by simp [h1, h2]⟩))
  · exact .inl ⟨rfl, by simp⟩

/-- A timecode operation is turned away exactly when the device is down or has no module (60_exceptions R233). -/
theorem tcoUnavailable_eq_true (s : State) : tcoUnavailable s = true ↔ s.devUp = false ∨ s.rt.tcoPresent = false := by
  simp [tcoUnavailable]

theorem tcoUnavailable_eq_false (s : State) : tcoUnavailable s = false ↔ s.devUp = true ∧ s.rt.tcoPresent = true := by
  simp [tcoUnavailable]

end Sys2Proof.Machine
end

