-- ==== Sys2Proof/Laws/FrameCounter.lean ====
section
/-! SUPPORT. The frame counter in natural numbers (spec/40_frame_counter.md). -/

namespace Sys2Proof.Machine

/-- A power of two that fits a word has an exponent below 32. -/
theorem exponent_lt (P : Word) (j : Nat) (h : P.toNat = 2 ^ j) : j < 32 := by
  by_contra hc
  have : 2 ^ 32 ≤ 2 ^ j := Nat.pow_le_pow_right (by omega) (by omega)
  have := P.isLt
  omega

/-- The mask below a power of two. -/
theorem pred_toNat (P : Word) (j : Nat) (h : P.toNat = 2 ^ j) : (P - 1).toNat = 2 ^ j - 1 := by
  have : 2 ^ j < 2 ^ 32 := Nat.pow_lt_pow_right (by omega) (exponent_lt P j h)
  have : 0 < 2 ^ j := by positivity
  simp [BitVec.toNat_sub, h]
  omega

/-- Clearing the low bits of a word is rounding down to a multiple of a power of two (R93). -/
theorem and_not_pred_toNat (p P : Word) (j : Nat) (h : P.toNat = 2 ^ j) :
    (p &&& ~~~(P - 1)).toNat = 2 ^ j * (p.toNat / 2 ^ j) := by
  have hj := exponent_lt P j h
  apply Nat.eq_of_testBit_eq
  intro b
  rw [mul_comm, Nat.testBit_mul_two_pow, Nat.testBit_div_two_pow]
  by_cases hb : b < 32
  · have hx : (p &&& ~~~(P - 1)).toNat.testBit b = (p &&& ~~~(P - 1)).getLsbD b := rfl
    have hm : (P - 1).getLsbD b = decide (b < j) := by
      change (P - 1).toNat.testBit b = _
      rw [pred_toNat P j h, Nat.testBit_two_pow_sub_one]
    rw [hx, BitVec.getLsbD_and, BitVec.getLsbD_not, hm]
    by_cases hbj : b < j
    · simp [hbj]
    · have : j ≤ b := by omega
      simp [hb, hbj, this]; rfl
  · have hz : ∀ x : Word, x.toNat.testBit b = false := fun x => BitVec.getLsbD_of_ge x b (by omega)
    have hbj : j ≤ b := by omega
    simp only [hz, hbj, decide_true, Bool.true_and]
    rw [show b - j + j = b by omega]
    exact (hz p).symm

/-- Keeping the low bits of a word is the remainder by a power of two (R92). -/
theorem and_pred_toNat (x W : Word) (k : Nat) (h : W.toNat = 2 ^ k) : (x &&& (W - 1)).toNat = x.toNat % 2 ^ k := by
  rw [BitVec.toNat_and, pred_toNat W k h, Nat.and_two_pow_sub_one_eq_mod]

/-- `FC.UPDATE` counts a wrap exactly when the pointer is below the last one (R94). -/
theorem fcAdvance_wrapCount (fc : FrameCounter) (p : Word) :
    (fcAdvance fc p).wrapCount.toNat =
      if p.toNat < fc.lastHwPointer.toNat then (fc.wrapCount.toNat + 1) % 2 ^ 64 else fc.wrapCount.toNat := by
  simp only [fcAdvance, BitVec.ult]
  by_cases h : p.toNat < fc.lastHwPointer.toNat <;> simp [h, BitVec.toNat_add]

/-- The frame count of `FC.UPDATE` in natural numbers (R94). -/
theorem fcAdvance_frameCount (fc : FrameCounter) (p : Word) (j : Nat) (h : fc.periodSize.toNat = 2 ^ j) :
    (fcAdvance fc p).frameCount.toNat =
      ((fcAdvance fc p).wrapCount.toNat * fc.hwBufferSize.toNat + 2 ^ j * (p.toNat / 2 ^ j)) % 2 ^ 64 := by
  have e : (fcAdvance fc p).frameCount =
      (fcAdvance fc p).wrapCount * fc.hwBufferSize.setWidth 64 + (periodFloor fc.periodSize p).setWidth 64 := rfl
  have h1 := fc.hwBufferSize.isLt
  have h2 : 2 ^ j * (p.toNat / 2 ^ j) ≤ p.toNat := Nat.mul_div_le _ _
  have h3 := p.isLt
  rw [e, BitVec.toNat_add, BitVec.toNat_mul, BitVec.toNat_setWidth, BitVec.toNat_setWidth, periodFloor,
    and_not_pred_toNat p _ j h, Nat.mod_eq_of_lt (show fc.hwBufferSize.toNat < 2 ^ 64 by omega),
    Nat.mod_eq_of_lt (show 2 ^ j * (p.toNat / 2 ^ j) < 2 ^ 64 by omega)]
  omega

/-- A period size is a power of two between 32 and 8192 (R90). -/
theorem periodSize_two_pow (c : Nat) (f : Family) (p : Word) (hc : c < 8) (h : periodSizeFromLatency c f = some p) :
    ∃ j, 5 ≤ j ∧ j ≤ 13 ∧ p.toNat = 2 ^ j := by
  have hs : (64#32 <<< c).toNat = 2 ^ (6 + c) := by interval_cases c <;> rfl
  cases f
  · simp only [periodSizeFromLatency, Option.some.injEq] at h
    exact ⟨6 + c, by omega, by omega, h ▸ hs⟩
  · simp only [periodSizeFromLatency, Option.some.injEq] at h
    split at h
    · exact ⟨5, by omega, by omega, h ▸ rfl⟩
    · exact ⟨6 + c, by omega, by omega, h ▸ hs⟩
  · simp [periodSizeFromLatency] at h

/-- The latency field always has three bits (R64). -/
theorem ctlGet_lat_lt (w : Word) : ctlGet w .lat < 8 := by rw [ctlGet_lat]; omega

/-- In a well-formed configuration both sizes are powers of two (R102). -/
theorem sizes_two_pow (s : State) (hc : s.conf.ok = true) (h : SizesFollowLatency s) :
    ∃ j k, 5 ≤ j ∧ j ≤ 13 ∧ 6 ≤ k ∧ k < 32 ∧ s.fc.periodSize.toNat = 2 ^ j ∧ s.fc.hwBufferSize.toNat = 2 ^ k := by
  obtain ⟨h1, h2⟩ := h
  obtain ⟨j, hj5, hj13, hj⟩ := periodSize_two_pow _ _ _ (ctlGet_lat_lt _) h1
  have hw : s.conf.wrapOk = true := by
    simp only [Config.ok, Bool.and_eq_true] at hc
    tauto
  simp only [Config.wrapOk, Bool.and_eq_true, decide_eq_true_eq, List.any_eq_true, List.mem_range, beq_iff_eq] at hw
  obtain ⟨hw1, k, hk, hwk⟩ := hw
  rw [h2, wrapPeriod]
  split
  · have hk6 : 6 ≤ k := by
      by_contra hn
      have : 2 ^ k ≤ 2 ^ 5 := Nat.pow_le_pow_right (by omega) (by omega)
      omega
    have : 2 ^ k < 2 ^ 32 := Nat.pow_lt_pow_right (by omega) hk
    exact ⟨j, k, hj5, hj13, hk6, hk, hj, by simp [hwk]; omega⟩
  · have : 2 ^ j ≤ 2 ^ 13 := Nat.pow_le_pow_right (by omega) hj13
    refine ⟨j, j + 1, hj5, hj13, by omega, by omega, hj, ?_⟩
    rw [BitVec.toNat_mul, hj, pow_succ]
    simp
    omega

end Sys2Proof.Machine
end

