-- ==== Sys2Proof/Laws/LtcArith.lean ====
section
/-! SUPPORT. Time codes by their digits (spec/30_encoding.md R66, R67; spec/42_ltc_arith.md R130): the fields of a word as
numbers, a packed code bit by bit, validity in words. -/

namespace Sys2Proof.Machine

/-! ### Bit fields -/

theorem bitField_testBit (w : Word) (lo len b : Nat) :
    (bitField w lo len).testBit b = (decide (b < len) && w.getLsbD (lo + b)) := by
  change (w.extractLsb' lo len).getLsbD b = _
  rw [BitVec.getLsbD_extractLsb']

theorem bitField_lt (w : Word) (lo len : Nat) : bitField w lo len < 2 ^ len := (w.extractLsb' lo len).isLt

/-- A bit field by division, as 00_scope R8 has it. -/
theorem bitField_toNat (w : Word) (lo len : Nat) : bitField w lo len = w.toNat / 2 ^ lo % 2 ^ len := by
  simp [bitField, Nat.shiftRight_eq_div_pow]

/-- A bit field is the number whose bits stand there. -/
theorem bitField_eq_of_bits (w : Word) (lo len n : Nat) (hn : n < 2 ^ len)
    (h : ∀ b, b < len → w.getLsbD (lo + b) = n.testBit b) : bitField w lo len = n := by
  apply Nat.eq_of_testBit_eq
  intro b
  rw [bitField_testBit]
  by_cases hb : b < len
  · simp [hb, h b hb]
  · have : n.testBit b = false :=
      Nat.testBit_lt_two_pow (lt_of_lt_of_le hn (Nat.pow_le_pow_right (by omega) (not_lt.mp hb)))
    simp [hb, this]

/-- Masking with ones over a field leaves the field. -/
theorem bitField_and (c m : Word) (lo len : Nat) (h : ∀ b, b < len → m.getLsbD (lo + b) = true) :
    bitField (c &&& m) lo len = bitField c lo len := by
  apply Nat.eq_of_testBit_eq
  intro b
  simp only [bitField_testBit, BitVec.getLsbD_and]
  by_cases hb : b < len <;> simp [hb, h]

/-! ### Packed codes -/

/-- A byte lane of a packed code bit by bit. -/
theorem packLane_getLsbD (v w lo b : Nat) (hb : b < 32) :
    (packLane v w lo).getLsbD b =
      if lo ≤ b ∧ b < lo + 4 then (v % 10).testBit (b - lo)
      else if lo + 4 ≤ b ∧ b < lo + 4 + w then (v / 10).testBit (b - (lo + 4))
      else false := by
  have h16 : ∀ n, 4 ≤ n → (v % 10).testBit n = false := fun n hn =>
    Nat.testBit_lt_two_pow (lt_of_lt_of_le (show v % 10 < 2 ^ 4 by omega) (Nat.pow_le_pow_right (by omega) hn))
  simp only [packLane, BitVec.getLsbD_or, BitVec.getLsbD_shiftLeft, BitVec.getLsbD_ofNat, hb, decide_true,
    Bool.true_and, Nat.testBit_mod_two_pow]
  by_cases h1 : lo ≤ b
  · by_cases h2 : b < lo + 4
    · simp [h1, h2, show ¬b < lo by omega, show b - lo < 32 by omega]
    · have h3 : lo + 4 ≤ b := by omega
      simp only [h1, h2, h3, show ¬b < lo by omega, show b - lo < 32 by omega, h16 (b - lo) (by omega),
        show b - (lo + 4) < 32 by omega]
      by_cases h4 : b < lo + 4 + w
      · simp [h4, show b - (lo + 4) < w by omega]
      · simp [h4, show ¬b - (lo + 4) < w by omega]
  · simp [h1, show b < lo by omega, show b < lo + 4 by omega, show ¬lo + 4 ≤ b by omega]

/-- A packed code bit by bit, as the table of R66 lays it out. -/
theorem ltcPack_getLsbD (x : LtcFields) (b : Nat) (hb : b < 32) :
    (ltcPack x).getLsbD b =
      if b < 4 then (x.f % 10).testBit b
      else if b < 6 then (x.f / 10).testBit (b - 4)
      else if b = 6 then x.df
      else if b = 7 then false
      else if b < 12 then (x.s % 10).testBit (b - 8)
      else if b < 15 then (x.s / 10).testBit (b - 12)
      else if b = 15 then false
      else if b < 20 then (x.m % 10).testBit (b - 16)
      else if b < 23 then (x.m / 10).testBit (b - 20)
      else if b = 23 then false
      else if b < 28 then (x.h % 10).testBit (b - 24)
      else if b < 30 then (x.h / 10).testBit (b - 28)
      else false := by
  simp only [ltcPack, BitVec.getLsbD_or, packLane_getLsbD _ _ _ _ hb]
  interval_cases b <;> simp

/-- The digits of a packed code, while they fit their places. -/
theorem ltcPack_digits (x : LtcFields) (hh : x.h < 40) (hm : x.m < 80) (hs : x.s < 80) (hf : x.f < 40) :
    bitField (ltcPack x) 0 4 = x.f % 10 ∧ bitField (ltcPack x) 4 2 = x.f / 10 ∧
    bitField (ltcPack x) 8 4 = x.s % 10 ∧ bitField (ltcPack x) 12 3 = x.s / 10 ∧
    bitField (ltcPack x) 16 4 = x.m % 10 ∧ bitField (ltcPack x) 20 3 = x.m / 10 ∧
    bitField (ltcPack x) 24 4 = x.h % 10 ∧ bitField (ltcPack x) 28 2 = x.h / 10 := by
  refine ⟨?_, ?_, ?_, ?_, ?_, ?_, ?_, ?_⟩ <;> apply bitField_eq_of_bits _ _ _ _ (by omega) <;> intro b hb <;>
    rw [ltcPack_getLsbD _ _ (by omega)] <;> interval_cases b <;> simp

/-- `LTC_CLEAN` bit by bit (R67). -/
theorem ltcClean_getLsbD (b : Nat) (hb : b < 32) :
    ltcClean.getLsbD b = decide (b ≠ 7 ∧ b ≠ 15 ∧ b ≠ 23 ∧ b ≠ 30 ∧ b ≠ 31) := by
  interval_cases b <;> decide

/-- The fields of a word are those of its clean part (R68). -/
theorem ltcFields_clean (c : Word) : ltcFields (c &&& ltcClean) = ltcFields c := by
  have h : ∀ lo len, (∀ b, b < len → ltcClean.getLsbD (lo + b) = true) →
      bitField (c &&& ltcClean) lo len = bitField c lo len := fun lo len => bitField_and c ltcClean lo len
  simp only [ltcFields]
  rw [h 0 4 (by decide), h 4 2 (by decide), h 8 4 (by decide), h 12 3 (by decide), h 16 4 (by decide),
    h 20 3 (by decide), h 24 4 (by decide), h 28 2 (by decide)]
  simp [ltcClean]

/-- A code whose units digits are decimal is packed back from its fields (R67). -/
theorem ltcPack_ltcFields (c : Word) (h0 : bitField c 0 4 ≤ 9) (h1 : bitField c 8 4 ≤ 9) (h2 : bitField c 16 4 ≤ 9)
    (h3 : bitField c 24 4 ≤ 9) : ltcPack (ltcFields c) = c &&& ltcClean := by
  have units : ∀ t u : Nat, u ≤ 9 → (10 * t + u) % 10 = u ∧ (10 * t + u) / 10 = t := by omega
  apply BitVec.eq_of_getLsbD_eq
  intro b hb
  rw [BitVec.getLsbD_and, ltcClean_getLsbD _ hb, ltcPack_getLsbD _ _ hb]
  simp only [ltcFields]
  rw [(units _ _ h0).1, (units _ _ h0).2, (units _ _ h1).1, (units _ _ h1).2, (units _ _ h2).1, (units _ _ h2).2,
    (units _ _ h3).1, (units _ _ h3).2]
  simp only [bitField_testBit]
  interval_cases b <;> simp

/-- The fields of a packed time of day are that time of day (R67). -/
theorem ltcFields_ltcPack (x : LtcFields) (hh : x.h < 24) (hm : x.m < 60) (hs : x.s < 60) (hf : x.f < 30) :
    ltcFields (ltcPack x) = x := by
  obtain ⟨h1, h2, h3, h4, h5, h6, h7, h8⟩ := ltcPack_digits x (by omega) (by omega) (by omega) (by omega)
  have hdf : (ltcPack x).getLsbD 6 = x.df := by rw [ltcPack_getLsbD _ _ (by omega)]; simp
  obtain ⟨h, m, s, f, df⟩ := x
  simp only [ltcFields, h1, h2, h3, h4, h5, h6, h7, h8, hdf]
  simp
  omega

/-! ### Validity -/

/-- `ltc_valid` in words (R130). -/
theorem ltcValid_iff (c : Word) (fps : Nat) (drop : Bool) :
    ltcValid c fps drop = true ↔
      bitField c 0 4 ≤ 9 ∧ bitField c 8 4 ≤ 9 ∧ bitField c 16 4 ≤ 9 ∧ bitField c 24 4 ≤ 9 ∧ (ltcFields c).f < fps ∧
        (ltcFields c).s < 60 ∧ (ltcFields c).m < 60 ∧ (ltcFields c).h < 24 ∧
        (drop = true → droppedLabel (ltcFields c) = false) := by
  simp only [ltcValid, ltcFields_clean]
  cases drop <;> simp [and_assoc]

/-- A packed time of day that is no dropped label is valid (R130). -/
theorem ltcValid_ltcPack (x : LtcFields) (fps : Nat) (drop : Bool) (hfps : fps ≤ 30) (hh : x.h < 24) (hm : x.m < 60)
    (hs : x.s < 60) (hf : x.f < fps) (hd : drop = true → droppedLabel x = false) :
    ltcValid (ltcPack x) fps drop = true := by
  obtain ⟨h1, -, h3, -, h5, -, h7, -⟩ := ltcPack_digits x (by omega) (by omega) (by omega) (by omega)
  rw [ltcValid_iff, ltcFields_ltcPack x hh hm hs (by omega), h1, h3, h5, h7]
  exact ⟨by omega, by omega, by omega, by omega, hf, hs, hm, hh, hd⟩

end Sys2Proof.Machine
end

