-- ==== Sys2Proof/Laws/PerInstr.lean ====
section
/-! SUPPORT. The per-instruction family `OpcodeWord`: what the word of each operation holds, slot by slot, against the
row of the opcode map (spec/30_encoding.md R80 to R82). -/

namespace Sys2Proof.Laws.OpcodeWord

/-- The word of an operation carries its opcode and a zero reserved byte, and each slot, zero-extended, fits the bits
that the row of the opcode map with this opcode gives it. -/
def Statement (i : Instr) : Prop :=
  ∃ row ∈ opcodeMap, (opOf (encode i)).toNat = row.op ∧ rsvOf (encode i) = 0 ∧
    (slotA (encode i)).toNat < 2 ^ row.aBits ∧ (slotB (encode i)).toNat < 2 ^ row.bBits ∧
    (slotC (encode i)).toNat < 2 ^ row.cBits

/-- The statement from the row and the bounds on the three operands. -/
theorem of_row (i : Instr) (row : OpcodeRow) (hm : row ∈ opcodeMap) (ho : (opcodeOf i).toNat = row.op)
    (ha : (encodeA i).toNat < 2 ^ row.aBits) (hb : (encodeB i).toNat < 2 ^ row.bBits)
    (hc : (encodeC i).toNat < 2 ^ row.cBits) : Statement i :=
  ⟨row, hm, by simpa only [encode, opOf_commandWord] using ho, by simp only [encode, rsvOf_commandWord],
    by simpa only [encode, slotA_commandWord] using ha, by simpa only [encode, slotB_commandWord] using hb,
    by simpa only [encode, slotC_commandWord] using hc⟩

/-- A narrow operand, zero-extended, stays below its width (R81). -/
theorem setWidth_lt {n : Nat} (x : BitVec n) : (x.setWidth 64 : U64).toNat < 2 ^ n := by
  rw [BitVec.toNat_setWidth]
  exact lt_of_le_of_lt (Nat.mod_le _ _) x.isLt

/-- A one-bit operand in its slot. -/
theorem boolSlot_lt (b : Bool) : (boolSlot b).toNat < 2 ^ 1 := by cases b <;> decide

/-- The direction operand in its slot. -/
theorem directionSlot_lt (d : Direction) : (directionSlot d).toNat < 2 ^ 1 := by cases d <;> decide

theorem devInit (x : Bool) : Statement (.devInit x) :=
  of_row _ ⟨0x01, 1, 0, 0⟩ (by decide) rfl (boolSlot_lt x) Nat.one_pos Nat.one_pos

theorem devShutdown : Statement .devShutdown :=
  of_row _ ⟨0x02, 0, 0, 0⟩ (by decide) rfl Nat.one_pos Nat.one_pos Nat.one_pos

theorem irq : Statement .irq :=
  of_row _ ⟨0x10, 0, 0, 0⟩ (by decide) rfl Nat.one_pos Nat.one_pos Nat.one_pos

theorem midiDone (x : BitVec 2) : Statement (.midiDone x) :=
  of_row _ ⟨0x11, 2, 0, 0⟩ (by decide) rfl (setWidth_lt x) Nat.one_pos Nat.one_pos

theorem pollSet (x : Word) : Statement (.pollSet x) :=
  of_row _ ⟨0x12, 32, 0, 0⟩ (by decide) rfl (setWidth_lt x) Nat.one_pos Nat.one_pos

theorem pcmAttach (x : Direction) (y : Bool) : Statement (.pcmAttach x y) :=
  of_row _ ⟨0x13, 1, 1, 0⟩ (by decide) rfl (directionSlot_lt x) (boolSlot_lt y) Nat.one_pos

theorem ctlUpdate (x : Word) (y : Word) : Statement (.ctlUpdate x y) :=
  of_row _ ⟨0x14, 32, 32, 0⟩ (by decide) rfl (setWidth_lt x) (setWidth_lt y) Nat.one_pos

theorem fcSetlat (x : U64) : Statement (.fcSetlat x) :=
  of_row _ ⟨0x20, 64, 0, 0⟩ (by decide) rfl x.isLt Nat.one_pos Nat.one_pos

theorem fcReset : Statement .fcReset :=
  of_row _ ⟨0x21, 0, 0, 0⟩ (by decide) rfl Nat.one_pos Nat.one_pos Nat.one_pos

theorem fcRead : Statement .fcRead :=
  of_row _ ⟨0x22, 0, 0, 0⟩ (by decide) rfl Nat.one_pos Nat.one_pos Nat.one_pos

theorem mtcMsg (x : U64) (y : BitVec 4) (z : BitVec 80) : Statement (.mtcMsg x y z) :=
  of_row _ ⟨0x30, 64, 4, 80⟩ (by decide) rfl x.isLt (setWidth_lt y) z.isLt

theorem ltcStart (x : Word) (y : U64) : Statement (.ltcStart x y) :=
  of_row _ ⟨0x40, 32, 64, 0⟩ (by decide) rfl (setWidth_lt x) y.isLt Nat.one_pos

theorem ltcStartNow (x : Word) : Statement (.ltcStartNow x) :=
  of_row _ ⟨0x41, 32, 0, 0⟩ (by decide) rfl (setWidth_lt x) Nat.one_pos Nat.one_pos

theorem ltcStartWall (x : U64) : Statement (.ltcStartWall x) :=
  of_row _ ⟨0x42, 64, 0, 0⟩ (by decide) rfl x.isLt Nat.one_pos Nat.one_pos

theorem ltcStop : Statement .ltcStop :=
  of_row _ ⟨0x43, 0, 0, 0⟩ (by decide) rfl Nat.one_pos Nat.one_pos Nat.one_pos

theorem cfgSync (x : U64) : Statement (.cfgSync x) :=
  of_row _ ⟨0x50, 64, 0, 0⟩ (by decide) rfl x.isLt Nat.one_pos Nat.one_pos

theorem cfgFps (x : U64) : Statement (.cfgFps x) :=
  of_row _ ⟨0x51, 64, 0, 0⟩ (by decide) rfl x.isLt Nat.one_pos Nat.one_pos

theorem cfgSrate (x : U64) : Statement (.cfgSrate x) :=
  of_row _ ⟨0x52, 64, 0, 0⟩ (by decide) rfl x.isLt Nat.one_pos Nat.one_pos

theorem cfgPull (x : U64) : Statement (.cfgPull x) :=
  of_row _ ⟨0x53, 64, 0, 0⟩ (by decide) rfl x.isLt Nat.one_pos Nat.one_pos

theorem cfgWck (x : U64) : Statement (.cfgWck x) :=
  of_row _ ⟨0x54, 64, 0, 0⟩ (by decide) rfl x.isLt Nat.one_pos Nat.one_pos

theorem cfgTerm (x : U64) : Statement (.cfgTerm x) :=
  of_row _ ⟨0x55, 64, 0, 0⟩ (by decide) rfl x.isLt Nat.one_pos Nat.one_pos

theorem cfgRun (x : U64) : Statement (.cfgRun x) :=
  of_row _ ⟨0x56, 64, 0, 0⟩ (by decide) rfl x.isLt Nat.one_pos Nat.one_pos

theorem cfgFlywheel (x : U64) : Statement (.cfgFlywheel x) :=
  of_row _ ⟨0x57, 64, 0, 0⟩ (by decide) rfl x.isLt Nat.one_pos Nat.one_pos

theorem tcoStatus : Statement .tcoStatus :=
  of_row _ ⟨0x58, 0, 0, 0⟩ (by decide) rfl Nat.one_pos Nat.one_pos Nat.one_pos

end Sys2Proof.Laws.OpcodeWord
end

