-- ==== Sys2Proof/Tests/Slice0.lean ====
section
/-! SUPPORT. Tests: what `WellFormed` refuses, the words of every operation, one or two steps of each operation against
the vectors of spec/95_test_vectors.md, and for every statement with hypotheses a state and operands that meet them
(`witness_<statement>`). -/

namespace Sys2Proof.Tests

open Sys2Proof.Machine

/-! ### Helpers -/

/-- The state an operation answers, the state before it if it stopped. -/
def after (i : Instr) (s : State) : State :=
  match exec i s with
  | .next t => t
  | .fault _ => s
  | .refused _ => s

/-- `s` with a register answer for `STATUS` and a clock sample queued. -/
def withStatus (st : Word) (s : State) : State := { s with env := { s.env with status := [st], now := [0] } }

/-- The events of an operation, without those before it. -/
def news (i : Instr) (s : State) : List Event := (after i s).events.drop s.events.length

/-- The result of an operation. -/
def said (i : Instr) (s : State) : Option OpResult := (after i s).results.getLast?

/-- `(OK, 0, -)` -/
def okSame : Option OpResult := some ⟨.ok, false, .none⟩

/-- `(OK, 1, -)` -/
def okChanged : Option OpResult := some ⟨.ok, true, .none⟩

/-- `(E_INVAL, 0, -)` -/
def inval : Option OpResult := some ⟨.inval, false, .none⟩

/-- After `DEV.INIT 1`: "fresh" in spec/95_test_vectors.md. -/
def fresh : State := after (.devInit true) State.reset

/-- After `DEV.INIT 0`. -/
def bare : State := after (.devInit false) State.reset

/-- 48000 Hz, 25 fps: the start of V-EN-1 to V-EN-4. -/
def at25 : State := after (.cfgFps 1) (after (.ctlUpdate 0x3e1 0xa1) fresh)

/-- The frame count of V-EN-1 just before the audio interrupt: `FC.UPDATE` makes 102400 of `STATUS = 0x00010100`. -/
def nearV (s : State) : State := { s with fc := { s.fc with wrapCount := 6, lastHwPointer := 4032 } }

/-- V-EN-1 after its audio interrupt: output armed, `TCO_CTL` at `0x00070e00`. -/
def armed : State := after .irq (withStatus 0x00010100 (nearV (after (.ltcStartNow 0x01000000) at25)))

/-! ### WellFormed: each check refuses an ill-formed term -/

theorem test_standard_ok : Config.standard.ok = true := by decide
theorem test_family_refused : Config.familyKnown { Config.standard with family := .unrecognised } = false := by decide
theorem test_wrap_small_refused : Config.wrapOk { Config.standard with wFixed := 32 } = false := by decide
theorem test_wrap_power_refused : Config.wrapOk { Config.standard with wFixed := 16383 } = false := by decide
theorem test_pointer_width_refused : Config.pointerOk { Config.standard with ptrWidth := 10 } = false := by decide
theorem test_pointer_shift_refused : Config.pointerOk { Config.standard with ptrShift := 16 } = false := by decide
theorem test_pointer_lsb_refused : Config.pointerOk { Config.standard with ptrLsb := 17 } = false := by decide
theorem test_flags_pointer_refused : Config.flagsOk { Config.standard with irqAudioBit := 15 } = false := by decide
theorem test_flags_overlap_refused : Config.flagsOk { Config.standard with irqAudioBit := 20 } = false := by decide
theorem test_midi_none_refused : Config.midiOk { Config.standard with nMidi := 0 } = false := by decide
theorem test_midi_five_refused : Config.midiOk { Config.standard with nMidi := 5 } = false := by decide
theorem test_drift_refused : Config.driftOk { Config.standard with driftN := 0 } = false := by decide
theorem test_calib_row_refused :
    Config.calibOk { Config.standard with calib := [[0, 0, 0], [0, 0, 0], [0, 0], [0, 0, 0]] } = false := by decide
theorem test_calib_size_refused :
    Config.calibOk { Config.standard with calib := [[0, 0, 0], [0, 0, 2147483648], [0, 0, 0], [0, 0, 0]] } = false := by
  decide
theorem test_rates_missing_refused : Config.ratesOk { Config.standard with rates := [] } = false := by decide
theorem test_rate_entry_refused : RateEntry.ok ⟨48000, 3⟩ = false ∧ RateEntry.ok ⟨48001, 1⟩ = false := by decide
theorem test_addr_unaligned_refused :
    Config.addrOk { Config.standard with addr := ⟨0, 4, 8, 12, 16, 20, 24, 30⟩ } = false := by decide
theorem test_addr_shared_refused :
    Config.addrOk { Config.standard with addr := ⟨0, 4, 8, 12, 16, 20, 24, 24⟩ } = false := by decide
theorem test_wcbits_refused : Config.wcBitsOk { Config.standard with wcBits := 32 } = false := by decide

/-- The nine illegal words of V-ENC-5, and that the decoder names each reason. -/
theorem test_illegal_words :
    legalWord 0x00#224 = false ∧ decode 0x00#224 = .error .unknownOpcode ∧
    legalWord 0x59#224 = false ∧ decode 0x59#224 = .error .unknownOpcode ∧
    legalWord 0x110#224 = false ∧ decode 0x110#224 = .error .reservedNonzero ∧
    legalWord 0x10010#224 = false ∧ decode 0x10010#224 = .error .unusedSlotNonzero := by
  refine ⟨?_, rfl, ?_, rfl, ?_, rfl, ?_, rfl⟩ <;> decide

theorem test_illegal_operands :
    decode 0x1000000000000000000000000000000000021#224 = .error .unusedSlotNonzero ∧
    decode 0x20001#224 = .error .operandTooWide ∧ decode 0x40011#224 = .error .operandTooWide ∧
    decode 0x1000000000000000010030#224 = .error .operandTooWide ∧
    decode 0x1000000000041#224 = .error .operandTooWide := ⟨rfl, rfl, rfl, rfl, rfl⟩

/-! ### The words of every operation, as spec/95_test_vectors.md part 3 prints them or laid out from R80 -/

theorem test_decode_device :
    decodeTableWord 224 0x00010001 = some (.devInit true) ∧ decodeTableWord 224 0x00000002 = some .devShutdown := by
  decide

theorem test_decode_scheduler :
    decodeTableWord 224 0x10 = some .irq ∧ decodeTableWord 224 0x00030011 = some (.midiDone 3) ∧
    decodeTableWord 224 0x000a0012 = some (.pollSet 10) ∧
    decodeTableWord 224 0x00000100000000000000010013 = some (.pcmAttach .playback true) ∧
    decodeTableWord 224 0x03c000a10000000003c003e10014 = some (.ctlUpdate 0x03c003e1 0x03c000a1) := by decide

theorem test_decode_frame_counter :
    decodeTableWord 224 0x00010020 = some (.fcSetlat 1) ∧ decodeTableWord 224 0x21 = some .fcReset ∧
    decodeTableWord 224 0x22 = some .fcRead := by decide

theorem test_decode_message :
    decodeTableWord 224 0xf71710002101017f7ff0000000000000000a000000012a05f2000030 =
      some (.mtcMsg 5000000000 10 0xf71710002101017f7ff0) := by decide

theorem test_decode_output :
    decodeTableWord 224 0x177000000000100010000040 = some (.ltcStart 0x10001000 6000) ∧
    decodeTableWord 224 0x010000000041 = some (.ltcStartNow 0x01000000) ∧
    decodeTableWord 224 0xffffffffffffb9b00042 = some (.ltcStartWall (BitVec.ofInt 64 (-18000))) ∧
    decodeTableWord 224 0x43 = some .ltcStop := by decide

theorem test_decode_config :
    decodeTableWord 224 0x00020050 = some (.cfgSync 2) ∧ decodeTableWord 224 0x00010051 = some (.cfgFps 1) ∧
    decodeTableWord 224 0x00020052 = some (.cfgSrate 2) ∧ decodeTableWord 224 0x00010053 = some (.cfgPull 1) ∧
    decodeTableWord 224 0x00020054 = some (.cfgWck 2) ∧ decodeTableWord 224 0x00010055 = some (.cfgTerm 1) ∧
    decodeTableWord 224 0x00010056 = some (.cfgRun 1) ∧
    decodeTableWord 224 0x0100000000000057 = some (.cfgFlywheel 1099511627776) ∧
    decodeTableWord 224 0x58 = some .tcoStatus := by decide

/-- R85's examples of assembler text, and R86's one pseudo-operation. -/
theorem test_assembly :
    assembly (.mtcMsg 5 2 0x00F1) = "MTC.MSG 5, 2, [F1 00]" ∧ encode devDisable = 0x210014#224 := by decide

/-! ### The device: V-CF-2 -/

theorem test_dev_init :
    news (.devInit true) State.reset = [.regwrite .control 0, .regwrite .tcoCtl 0, .regwrite .tcoCtl2 0] ∧
    news (.devInit false) State.reset = [.regwrite .control 0] ∧ fresh.rt.tcoPresent = true ∧ fresh.devUp = true := by
  decide

theorem test_dev_shutdown :
    news .devShutdown armed = [.regwrite .tcoCtl 0x00040000, .regwrite .control 0x00000080] ∧
    (after .devShutdown armed).devUp = false ∧ (after .devShutdown armed).cfg.fpsCode = 1 := by decide

/-! ### The scheduler: V-SC-1 to V-SC-6 -/

/-- The start of V-SC-1. -/
def listening : State :=
  after (.pcmAttach .playback true) (after (.pcmAttach .capture true) (after (.ctlUpdate 0x03c003e1 0x03c000a1) bare))

theorem test_irq_both :
    news .irq (withStatus 0x00150008 listening) =
      [.regwrite .irqAck 0, .notifyPcm .capture, .notifyPcm .playback, .regwrite .control 0x014000a1,
       .deferMidiDrain] ∧
    (after .irq (withStatus 0x00150008 listening)).fc.frameCount = 128 := by decide

theorem test_irq_not_handled :
    news .irq (withStatus 0xffe0000c listening) = [] ∧
    said .irq (withStatus 0xffe0000c listening) = some ⟨.ok, false, .u64 0⟩ := by decide

/-- Port 1 draining after a MIDI interrupt. -/
def draining : State := after .irq (withStatus 0x00040004 listening)

theorem test_midi_done :
    news (.midiDone 1) draining = [.regwrite .control 0x03c000a1] ∧ said (.midiDone 1) draining = okChanged ∧
    said (.midiDone 0) draining = okSame := by decide

theorem test_poll_set :
    news (.pollSet 10) bare = [.notifyCtl 0x12] ∧ said (.pollSet 10) (after (.pollSet 10) bare) = okSame := by decide

/-- V-SC-4 at 99999999, 100000000 and 199999999 ns. -/
theorem test_poll_threshold :
    pollDue Config.standard { Scheduler.reset with pollRate := 10 } 100000000 = true ∧
    pollDue Config.standard { Scheduler.reset with pollRate := 10 } 99999999 = false ∧
    pollDue Config.standard { Scheduler.reset with pollRate := 10, lastPollNs := 100000000 } 199999999 = false := by
  decide

theorem test_pcm_attach :
    said (.pcmAttach .capture true) bare = okChanged ∧
    said (.pcmAttach .capture true) (after (.pcmAttach .capture true) bare) = okSame := by decide

theorem test_ctl_update_writes :
    news (.ctlUpdate 0x000003c0 0x00000180) draining = [.regwrite .control 0x034001a1] ∧
    news (.ctlUpdate 0x00000001 0xfffffffe) draining = [.regwrite .control 0x034000a0] := by decide

theorem test_ctl_update_refuses :
    said (.ctlUpdate 0x00800000 0x00800000) draining = inval ∧ said (.ctlUpdate 0x0000000e 0x00000002) draining = inval ∧
    said (.ctlUpdate 0x000003c0 0x000000c0) draining = inval ∧
    said (.ctlUpdate 0x000003c0 0x00000300) draining = inval := by decide

/-! ### The frame counter: V-FC-3, V-FC-6 to V-FC-8 -/

theorem test_fc_setlat :
    news (.fcSetlat 7) bare = [.regwrite .control 0x0000000e, .notifyConfig] ∧
    (after (.fcSetlat 7) bare).fc.periodSize = 32 ∧ said (.fcSetlat 8) bare = inval ∧
    said (.fcSetlat 0) bare = okSame := by decide

theorem test_fc_advance_wraps :
    (fcAdvance ⟨64, 16384, 16320, 0, 16320⟩ 0).frameCount = 16384 ∧
    (fcAdvance ⟨64, 16384, 16320, 0xffffffffffffffff, 0xffffffffffffffc0⟩ 64).wrapCount = 0 ∧
    (fcAdvance ⟨64, 16384, 16320, 0xffffffffffffffff, 0xffffffffffffffc0⟩ 64).frameCount = 64 := by decide

theorem test_fc_reset_read :
    let s : State := { bare with fc := ⟨64, 16384, 300, 5, 82176⟩ }
    said .fcRead s = some ⟨.ok, false, .u64 82176⟩ ∧ (after .fcReset s).fc = ⟨64, 16384, 0, 0, 0⟩ ∧
    (after .irq (withStatus 0x00010018 (after .fcReset s))).fc.frameCount = 384 := by decide

theorem test_hw_pointer :
    hwPointer Config.standard 16384 0x0001ffff = 16368 ∧ hwPointer Config.standard 16384 0xfffe03ff = 16368 ∧
    hwPointer Config.standard 128 0x00010007 = 112 := by decide

/-! ### Time-code arithmetic: V-AR-1 to V-AR-5 -/

theorem test_ltc_valid :
    ltcValid 0x00010041 30 true = false ∧ ltcValid 0x00010042 30 true = true ∧ ltcValid 0x00100040 30 true = true ∧
    ltcValid 0x01000025 25 false = false ∧ ltcValid 0x81809097 25 false = true ∧
    ltcValid 0x81808a97 25 false = false := by decide

theorem test_ltc_inc :
    ltcInc 0x00005969 30 true = 0x00010042 ∧ ltcInc 0x00095969 30 true = 0x00100040 ∧
    ltcInc 0x23595969 30 true = 0x00000040 ∧ ltcInc 0x81809097 25 false = 0x01001018 ∧
    ltcInc 0x0000850a 25 false = 0x00000511 ∧ ltcInc 0xffffffff 30 true = 0x00000040 := by decide

theorem test_ltc_add_closed :
    ltcAddClosed 0x00005960 15 30 true = 0x00010047 ∧ ltcAddClosed 0x00000040 17982 30 true = 0x00100040 ∧
    ltcAddClosed 0x00000040 2589408 30 true = 0x00000040 ∧ ltcAddClosed 0x01000000 90000 25 false = 0x02000000 := by
  decide

theorem test_hms_of : hmsOf 1000003600 = (2, 46, 40) ∧ hmsOf (-18000) = (19, 0, 0) := by decide

/-! ### The decoder and the estimator: V-DE-1, V-DE-2, V-DR-1, V-DR-2 -/

theorem test_mtc_msg :
    (after (.mtcMsg 0 2 0x15F1) fresh).rt.ltcChanged = true ∧
    (after (.mtcMsg 0 2 0x15F1) fresh).rt.lastMsgValid = false ∧
    (after (.mtcMsg 0 2 0x80F1) fresh).rt = fresh.rt ∧
    news (.mtcMsg 40000000 2 0x4FF1) (after (.mtcMsg 0 2 0x05F1) at25) = [.notifyPull 1000] := by decide

/-- V-DR-2: the oldest duration leaves a full ring. -/
theorem test_ring_evicts :
    let rt := ringPush 2 { TcoRuntime.reset Config.standard with ring := [4, 5], ringCnt := 2, ringSum := 9 } 8
    rt.ring = [8, 5] ∧ rt.ringSum = 13 ∧ rt.ringPos = 1 ∧ rt.ringCnt = 2 := by decide

/-- The third row of V-DE-2. -/
theorem test_inbound :
    let t := publishInbound 0x8080d9e9 0x00027f7f 4 { fresh with fc := { fresh.fc with frameCount := 409600 } }
    t.rt.ltcIn = 0x00010042 ∧ t.rt.ltcInTime = 405505 ∧ t.rt.ltcInFps = 2 ∧ t.rt.ltcInValid = false := by decide

/-! ### The encoder: V-EN-1, V-EN-2, V-EN-6, V-EN-7 -/

theorem test_ltc_start_now :
    armed.fc.frameCount = 102400 ∧ armed.rt.outStart = 104320 ∧ armed.rt.outOffset = 1792 ∧ armed.rt.outAdjust = 1 ∧
    armed.events.drop 6 = [.regwrite .irqAck 0, .regwrite .tcoLtcOut 0x01000001, .regwrite .tcoCtl 0x00070e00] := by
  decide

theorem test_ltc_start_now_refused :
    said (.ltcStartNow 0x3f7f7f3f) at25 = inval ∧ (after (.ltcStartNow 0x3f7f7f3f) at25).rt = at25.rt := by decide

theorem test_ltc_start :
    (after (.ltcStart 0x81808080 5) at25).rt.pendCode = 0x01000000 ∧ said (.ltcStart 0x01000025 0) at25 = inval := by
  decide

theorem test_ltc_start_warned :
    let t := after .irq (withStatus 0x00010100 (nearV (after (.ltcStart 0x01000000 122528) at25)))
    t.rt.outOffset = 3616 ∧ t.rt.outWarn = true ∧ t.rt.outAdjust = BitVec.ofInt 64 (-10) ∧
    t.events.drop 7 = [.warnOffset 20000, .regwrite .tcoLtcOut 0x01000000, .regwrite .tcoCtl 0x00071c20] := by decide

/-- The first row of V-EN-4. -/
theorem test_ltc_start_wall :
    let s := withStatus 0x00010100 (nearV (after (.ltcStartWall 3600) at25))
    let t := after .irq { s with env := { s.env with wall := [⟨1000000000, 500000000⟩] } }
    t.rt.outCode = 0x02464013 ∧ t.rt.outStart = 103360 ∧ t.rt.outOffset = 832 := by decide +kernel

theorem test_ltc_stop :
    let cleared := after .irq (withStatus 0x00010104 armed)
    cleared.events.drop 10 = [.regwrite .tcoCtl 0x00060e00] ∧ news .ltcStop cleared = [.regwrite .tcoCtl 0x00040e00] ∧
    news .ltcStop (after .ltcStop cleared) = [] := by decide

/-! ### The setters: V-CF-1, V-EN-6 -/

theorem test_cfg_sync :
    news (.cfgSync 2) fresh = [.regwrite .tcoCtl 0x00200000, .notifyCtl 0x50] ∧ said (.cfgSync 3) fresh = inval := by
  decide
theorem test_cfg_fps :
    news (.cfgFps 1) fresh = [.regwrite .tcoCtl 0x00040000, .notifyCtl 0x51] ∧ said (.cfgFps 4) fresh = inval := by decide
theorem test_cfg_srate :
    news (.cfgSrate 2) fresh = [.regwrite .tcoCtl 0x02000000, .notifyCtl 0x52] ∧ said (.cfgSrate 3) fresh = inval := by
  decide
theorem test_cfg_pull :
    news (.cfgPull 4) fresh = [.regwrite .tcoCtl 0x10000000, .notifyCtl 0x53] ∧ said (.cfgPull 5) fresh = inval := by
  decide
theorem test_cfg_wck :
    news (.cfgWck 2) fresh = [.regwrite .tcoCtl2 0x00000002, .notifyCtl 0x54] ∧ said (.cfgWck 3) fresh = inval := by decide
theorem test_cfg_term :
    news (.cfgTerm 1) armed = [.regwrite .tcoCtl 0x00470e00, .notifyCtl 0x55] ∧ said (.cfgTerm 2) fresh = inval := by
  decide
theorem test_cfg_flywheel :
    news (.cfgFlywheel 1) fresh = [.regwrite .tcoCtl 0x20000000, .notifyCtl 0x57] ∧
    said (.cfgFlywheel 1099511627776) fresh = inval := by decide
theorem test_cfg_run_clears :
    news (.cfgRun 0) armed = [.regwrite .tcoCtl 0x00040e00, .notifyCtl 0x56] ∧
    said (.cfgRun 0) (after (.cfgRun 0) armed) = okSame ∧ said (.cfgRun 2) armed = inval := by decide
theorem test_cfg_run_sets :
    news (.cfgRun 1) (after (.cfgRun 0) armed) = [.regwrite .tcoCtl 0x00060e00, .notifyCtl 0x56] := by decide

/-! ### Status: V-CF-3, V-CF-4 -/

theorem test_tco_status :
    said .tcoStatus fresh =
      some ⟨.ok, false, .snapshot { Snapshot.zero with tcoPresent := true, periodSize := 64 }⟩ ∧
    said .tcoStatus bare = some ⟨.neutral, false, .snapshot { Snapshot.zero with periodSize := 64 }⟩ := by decide

/-! ### A first step after reset -/

theorem test_first_step :
    step (State.reset.withFetchWord 224 0x10001) = exec (.devInit true) { State.reset with port := [] } := rfl

/-! ### States of a run, for the witnesses -/

/-- The parts of `Inv` that are Bools or quantify over ports. -/
def invChecks (s : State) : Bool :=
  s.conf.ok && rateValid (rateCode s.hw.ctl) &&
    ((List.range 4).all fun p => !midiPendingAt s.sch.midiPending p ||
      (decide (p < s.conf.nMidi) && ctlGet s.hw.ctl (.ieMidi p) == 0)) &&
    (s.devUp || !s.rt.tcoPresent && (List.range 4).all fun p => !midiPendingAt s.sch.midiPending p) &&
    (s.rt.tcoPresent || s.rt == TcoRuntime.reset s.conf) && (!s.devUp || s.rt.tcoPresent || s.cfg == TcoConfig.reset) &&
    (!s.rt.outArmed || s.cfg.run) && s.fc.frameCount.toNat % 32 == 0 && lastWrite .control s.events == some s.hw.ctl &&
    (!s.rt.tcoPresent || (lastWrite .tcoCtl s.events == some (tcoCtlWord s.cfg s.rt) &&
      lastWrite .tcoCtl2 s.events == some (tcoCtl2Word s.cfg)))

theorem midiPendingAt_of_ge (v : Vector Bool 4) (p : Nat) (h : 4 ≤ p) : midiPendingAt v p = false := by
  simp [midiPendingAt, h]

/-- The checks are the invariant, for a state in which `CONTROL` has been written. -/
theorem inv_of_checks (s : State) (h : invChecks s = true)
    (k : SizesFollowLatency s ∧ ConfigLegal s.cfg ∧ RingSound s.conf.driftN s.rt ∧ CodesClean s.rt ∧ PendingTidy s.rt) :
    Inv s := by
  simp only [invChecks, Bool.and_eq_true, Bool.or_eq_true, Bool.not_eq_true', beq_iff_eq, decide_eq_true_eq,
    List.all_eq_true, List.mem_range] at h
  obtain ⟨⟨⟨⟨⟨⟨⟨⟨⟨h1, h3⟩, h4⟩, h6⟩, h7⟩, h8⟩, h9⟩, h13⟩, h14⟩, h15⟩ := h
  obtain ⟨h2, h5, h10, h11, h12⟩ := k
  refine ⟨h1, h2, h3, fun p hp => ?_, h5, fun hd => ?_, fun ha => ?_, fun hd ha => ?_, fun ha => ?_, h10, h11, h12, h13,
    fun v hv => ?_, fun _ => h14, fun ha => ?_⟩
  · by_cases h : p < 4
    · exact (h4 p h).resolve_left (by simp [hp])
    · simp [midiPendingAt_of_ge _ p (by omega)] at hp
  · have := h6.resolve_left (by simp [hd])
    refine ⟨this.1, fun p => ?_⟩
    by_cases h : p < 4
    · exact this.2 p h
    · exact midiPendingAt_of_ge _ p (by omega)
  · exact h7.resolve_left (by simp [ha])
  · exact h8.resolve_left (by simp [hd, ha])
  · exact h9.resolve_left (by simp [ha])
  · rw [h14] at hv; exact (Option.some.inj hv).symm
  · exact h15.resolve_left (by simp [ha])

/-- A "start now" request before an audio interrupt, with `c` for every calibration entry. -/
def requested (c : Int) : State :=
  { withStatus 0x00010100 (nearV (after (.ltcStartNow 0x01000000) at25)) with
    conf := { Config.standard with calib := List.replicate 4 [c, c, c] } }

theorem inv_fresh : Inv fresh := inv_of_checks _ (by decide)
  (by unfold SizesFollowLatency ConfigLegal RingSound CodesClean PendingTidy; decide)
theorem inv_bare : Inv bare := inv_of_checks _ (by decide)
  (by unfold SizesFollowLatency ConfigLegal RingSound CodesClean PendingTidy; decide)
theorem inv_armed : Inv armed := inv_of_checks _ (by decide)
  (by unfold SizesFollowLatency ConfigLegal RingSound CodesClean PendingTidy; decide)
theorem inv_requested : Inv (requested 0) ∧ Inv (requested (-14464)) :=
  ⟨inv_of_checks _ (by decide)
  (by unfold SizesFollowLatency ConfigLegal RingSound CodesClean PendingTidy; decide), inv_of_checks _ (by decide)
  (by unfold SizesFollowLatency ConfigLegal RingSound CodesClean PendingTidy; decide)⟩

/-- The default parameters with 96000 Hz for rate code 0. -/
def fastRate : Config := { Config.standard with rates := some ⟨96000, 1⟩ :: standardRates.tail }

/-- The same device with a reserved rate code, which no command sequence produces (V-EN-8). -/
def reservedRate : State := { armed with hw := { armed.hw with ctl := 0xe1 } }

/-! ### Witnesses: the hypotheses of each statement, met -/

theorem witness_EncodeDecodeRoundTrip : decode 0x10#224 = .ok .irq := rfl

/-- With the device down and up. -/
theorem witness_IllegalWordRaisesEInval :
    legalWord 0x59#224 = false ∧ State.reset.conf.ok = true ∧ fresh.conf.ok = true ∧ State.reset.devUp = false ∧
    fresh.devUp = true ∧ ({ fresh with port := [0x59#224] } : State).port = 0x59#224 :: [] := by decide

theorem witness_StepRunsDecoded :
    fresh.conf.ok = true ∧ ({ fresh with port := [0x10#224] } : State).port = 0x10#224 :: [] ∧
    decodeTableWord 224 0x10 = some .irq := by decide

/-- A fifth port breaks R7; a base rate of 96000 breaks the range of log 5 alone; the defaults meet both. -/
theorem witness_StepIdlesAndRefuses :
    ¬MeetsR7 { Config.standard with nMidi := 5 } ∧
    (MeetsR7 fastRate ∧ ¬MeetsModelConstraints fastRate) ∧
    fresh.conf = Config.standard ∧ MeetsR7 Config.standard ∧ MeetsModelConstraints Config.standard ∧ fresh.port = [] := by
  refine ⟨fun h => absurd h.2.2.2.2.1.2 (by decide), ⟨⟨⟨14, rfl⟩, by decide⟩, fun h => ?_⟩, rfl, ⟨⟨14, rfl⟩, by decide⟩,
    ⟨by decide, by decide, by decide, ⟨by decide, ?_⟩, ⟨rfl, fun k h => ?_⟩, by decide, by decide⟩, rfl⟩
  · obtain ⟨e, he, -, -, h48⟩ := h.2.2.2.2.1.2 0 (by decide) (by decide) (by decide)
    obtain rfl : (⟨96000, 1⟩ : RateEntry) = e := Option.some.inj (Option.some.inj he)
    exact absurd h48 (by decide)
  · unfold OutsidePointer; decide
  · interval_cases k <;> simp [Config.standard, standardRates]

/-- The largest digits; the largest fields. -/
theorem witness_LtcPackFieldsRoundTrip :
    (0x39797939#32).toNat % 16 ≤ 9 ∧ (0x39797939#32).toNat / 256 % 16 ≤ 9 ∧ (0x39797939#32).toNat / 65536 % 16 ≤ 9 ∧
    (0x39797939#32).toNat / 16777216 % 16 ≤ 9 ∧ (⟨39, 79, 79, 39, true⟩ : LtcFields).h < 40 := by decide

theorem witness_ValidCodesAreTimesOfDay : (30 : Nat) ≤ 30 ∧ ltcValid 0x23595929 30 false = true := by decide

theorem witness_RegisterWritesAreLittleEndian :
    Config.standard.addrOk = true ∧ WriteReg.control ≠ WriteReg.tcoCtl2 ∧
    ((3, 1) : Host.Cell) ∈ busCells Config.standard (.regwrite .control 0x01020304) ∧
    ((28, 4) : Host.Cell) ∈ busCells Config.standard (.regwrite .tcoCtl2 0x01020304) ∧
    (∀ r v, Event.faultAssert ≠ .regwrite r v) := ⟨by decide, by decide, by decide, by decide, nofun⟩

theorem witness_NeutralNoOps :
    (∀ t, Instr.irq ≠ .devInit t) ∧ State.reset.devUp = false ∧ needsTco .ltcStop = true ∧
    bare.rt.tcoPresent = false ∧ bare.devUp = true := ⟨nofun, by decide⟩

theorem witness_RegisterWritersFollowTheTable :
    ∃ t es, exec .ltcStop armed = .next t ∧ t.events = armed.events ++ es ∧ .regwrite .tcoCtl 0x00040e00 ∈ es :=
  ⟨after .ltcStop armed, news .ltcStop armed, rfl, by decide, by decide⟩

theorem witness_TcoWritesCarryNoSyncBits :
    ∃ t es, exec .irq (requested 0) = .next t ∧ t.events = (requested 0).events ++ es ∧
      .regwrite .tcoLtcOut 0x01000001 ∈ es ∧ isTcoReg .tcoLtcOut = true :=
  ⟨after .irq (requested 0), news .irq (requested 0), rfl, by decide, by decide, rfl⟩

theorem witness_OnlyIrqTakesInputs :
    Instr.fcRead ≠ .irq ∧ (∃ t, exec .fcRead fresh = .next t) ∧ (requested 0).devUp = true ∧
    ∃ t, exec .irq (requested 0) = .next t := ⟨nofun, ⟨after .fcRead fresh, rfl⟩, rfl, ⟨after .irq (requested 0), rfl⟩⟩

theorem witness_IrqCountCountsAudioInterrupts :
    (∃ t, exec .irq (requested 0) = .next t) ∧ ∀ p, Instr.irq ≠ .devInit p := ⟨⟨after .irq (requested 0), rfl⟩, nofun⟩

theorem witness_FrameCountFormula : fresh.conf.ok = true ∧ SizesFollowLatency fresh := by
  unfold SizesFollowLatency; decide

/-- Equal pointers, and the step from the last period to 0. -/
theorem witness_FrameCountMonotonic :
    (64#32).toNat = 2 ^ 6 ∧ (16384#32).toNat = 2 ^ 14 ∧ 6 ≤ 14 ∧ (16320#32).toNat < 2 ^ 14 ∧
    ((0#64).toNat + 3) * 2 ^ 14 < 2 ^ 64 ∧ (16320#32).toNat ≤ (16320#32).toNat ∧ (0#32).toNat < (16320#32).toNat := by
  decide

/-- The shortest and the longest advance that is allowed. -/
theorem witness_FrameCountTracksPosition :
    ([64, 64, 16447] : List Nat).IsChain (fun a b => a ≤ b ∧ b < a + 2 ^ 14) ∧ ([64, 16447] : List Nat) ≠ [] ∧
    (⟨64, 16384, 64, 0, 64⟩ : FrameCounter).periodSize.toNat = 2 ^ 6 ∧
    (⟨64, 16384, 64, 0, 64⟩ : FrameCounter).hwBufferSize.toNat = 2 ^ 14 ∧
    (⟨64, 16384, 64, 0, 64⟩ : FrameCounter).lastHwPointer.toNat = 64 % 2 ^ 14 ∧
    (⟨64, 16384, 64, 0, 64⟩ : FrameCounter).wrapCount.toNat = 64 / 2 ^ 14 ∧ ∀ y ∈ [64, 16447], y < 2 ^ 64 := by
  refine ⟨?_, ?_⟩
  · simp
  · decide

/-- Every clause at the edge of its range: 8 refused, 7 accepted, 0 unchanged; an unrecognised family. -/
theorem witness_FcSetlat :
    State.reset.devUp = false ∧ bare.devUp = true ∧ 7 < (8#64).toNat ∧ (0#64).toNat = bare.hw.ctl.toNat / 2 % 8 ∧
    (7#64).toNat ≤ 7 ∧ (7#64).toNat ≠ bare.hw.ctl.toNat / 2 % 8 ∧ bare.conf.family ≠ .unrecognised ∧
    ({ bare with conf := { Config.standard with family := .unrecognised } } : State).conf.family = .unrecognised := by
  decide

theorem witness_FcReset_FcRead : State.reset.devUp = false ∧ bare.devUp = true := by decide

theorem witness_IrqNotHandled :
    (withStatus 0xffe0000c bare).devUp = true ∧
    (readAnswer .status (withStatus 0xffe0000c bare)).getLsbD bare.conf.irqAudioBit = false ∧
    ∀ p, p < bare.conf.nMidi →
      (readAnswer .status (withStatus 0xffe0000c bare)).getLsbD (bare.conf.irqMidiBit + p) = false := by decide

/-- The first and the last port with data. -/
theorem witness_IrqMidiStep :
    listening.devUp = true ∧
    (readAnswer .status (withStatus 0x00120004 listening)).getLsbD listening.conf.irqAudioBit = false ∧
    (readAnswer .status (withStatus 0x00120004 listening)).getLsbD (listening.conf.irqMidiBit + 0) = true ∧
    (readAnswer .status (withStatus 0x00120004 listening)).getLsbD (listening.conf.irqMidiBit + 3) = true ∧
    0 < listening.conf.nMidi ∧ 3 < listening.conf.nMidi := by decide

/-- With a module and a clock sample queued; without a module and with the clock queue empty; a request pending or not, a
changed flag. -/
theorem witness_IrqAudioOrder :
    (requested 0).rt.tcoPresent = true ∧ (requested 0).rt.pendKind ≠ .none ∧ listening.rt.tcoPresent = false ∧
    (after (.mtcMsg 0 2 0x7FF1) fresh).rt.ltcChanged = true ∧ (after (.mtcMsg 0 2 0x7FF1) fresh).rt.tcoPresent = true ∧
    (requested 0).devUp = true ∧ listening.devUp = true ∧
    (readAnswer .status (requested 0)).getLsbD (requested 0).conf.irqAudioBit = true ∧
    (requested 0).env.now = 0 :: [] ∧
    (readAnswer .status { listening with env := { Env.reset with status := [0x00150008] } }).getLsbD
      listening.conf.irqAudioBit = true ∧
    ({ listening with env := { Env.reset with status := [0x00150008] } } : State).env.now = [] := by decide

theorem witness_IrqReportsHandled : (withStatus 0x00010000 bare).devUp = true := by decide

/-- A missing port (the lowest one), a port that is not pending, a port that is. -/
theorem witness_MidiDone :
    State.reset.devUp = false ∧ draining.devUp = true ∧
    ({ bare with conf := { Config.standard with nMidi := 3 } } : State).conf.nMidi ≤ (3#2).toNat ∧
    (3#2).toNat < draining.conf.nMidi ∧ midiPendingAt draining.sch.midiPending (3#2).toNat = false ∧
    midiPendingAt draining.sch.midiPending (1#2).toNat = true := by decide

theorem witness_PollSet :
    State.reset.devUp = false ∧ bare.devUp = true ∧ (0 : Word) = bare.sch.pollRate ∧
    (0xffffffff : Word) ≠ bare.sch.pollRate := by decide

/-- The latency field, a draining port, and neither: a reserved base rate, a reserved speed mode, the same word, another word. -/
theorem witness_CtlUpdate :
    State.reset.devUp = false ∧ draining.devUp = true ∧ (0x8#32).getLsbD 3 = true ∧
    (0x00800000#32).getLsbD (22 + 1) = true ∧ midiPendingAt draining.sch.midiPending 1 = true ∧
    (¬((0x3c0#32).getLsbD 1 = true ∨ (0x3c0#32).getLsbD 2 = true ∨ (0x3c0#32).getLsbD 3 = true)) ∧
    (¬∃ p < 4, (0x3c0#32).getLsbD (22 + p) = true ∧ midiPendingAt draining.sch.midiPending p = true) ∧
    ((0xc0#32).getLsbD 6 = true ∧ (0xc0#32).getLsbD 7 = true) ∧
    ((0x300#32).getLsbD 8 = true ∧ (0x300#32).getLsbD 9 = true) ∧ draining.hw.ctl = 0x034000a1 := by decide

theorem witness_PcmAttach : State.reset.devUp = false ∧ bare.devUp = true := by decide

/-- The last label of the day, without drop-frame counting and with it. -/
theorem witness_LtcIncIsOneFrameLater_ClosedFormAgrees :
    ltcValid 0x23595924 25 false = true ∧ ltcValid 0x23595969 30 true = true ∧ ((30 : Nat) = 24 ∨ 30 = 25 ∨ 30 = 30) := by
  decide

theorem witness_DropFrameSkip : 23 < 24 ∧ 59 < 60 := by decide

/-- A malformed message, one that does not qualify, one that does with and without a stamp before it. -/
theorem witness_MtcMsgSetsChanged_QualifyingMessagePushesDuration :
    fresh.devUp = true ∧ fresh.rt.tcoPresent = true ∧ msgClass 2 0x80F1 = .malformed ∧ msgClass 2 0x7FF1 ≠ .malformed ∧
    qualifies (msgClass 2 0x7FF1) = false ∧ qualifies (msgClass 2 0x00F1) = true ∧ fresh.rt.lastMsgValid = false ∧
    (after (.mtcMsg 0 2 0x00F1) fresh).rt.lastMsgValid = true ∧
    (after (.mtcMsg 0 2 0x00F1) fresh).rt.tcoPresent = true := by decide

theorem witness_PullEstimateIsRounded_PullFactorVectors : (0 : Nat) < 1 := by decide

theorem witness_OutputRequestsOnlyStore :
    bare.rt.tcoPresent = false ∧ State.reset.devUp = false ∧ at25.devUp = true ∧ at25.rt.tcoPresent = true ∧
    ltcValid 0x01000025 (fpsOf at25.cfg.fpsCode).fps (fpsOf at25.cfg.fpsCode).drop = false ∧
    ltcValid 0x01000024 (fpsOf at25.cfg.fpsCode).fps (fpsOf at25.cfg.fpsCode).drop = true := by decide

theorem witness_LtcStop :
    bare.rt.tcoPresent = false ∧ armed.devUp = true ∧ armed.rt.tcoPresent = true ∧ armed.cfg.run = true ∧
    fresh.devUp = true ∧ fresh.rt.tcoPresent = true ∧ fresh.cfg.run = false := by decide

theorem witness_LatchClear : fresh.rt.outArmed = false ∧ armed.rt.outArmed = true := by decide

/-- Digits and bits beyond their ranges, the largest offset; the last rate code of the table. -/
theorem witness_InboundDecodePublishes :
    let s : State := { at25 with env := { at25.env with ltcIn := [0x8080d9e9], tcoStat := [0x00027f7f] } }
    RateIs s.conf s.hw.ctl ⟨48000, 1, 0⟩ ∧ s.env.ltcIn = 0x8080d9e9 :: [] ∧ s.env.tcoStat = 0x00027f7f :: [] ∧
    RateIs Config.standard 0x280 ⟨48000, 4, 2⟩ ∧ 15 < 16 := by unfold RateIs; decide

/-- Just below the floor, at it, a frame beyond it, and one more (V-EN-2). -/
theorem witness_PlanRespectsTheFloor :
    (0 : Int) < 1920 ∧ (102527 : Int) < 102528 ∧ (102528 : Int) ≤ 102528 ∧ (104448 : Int) ≤ 102528 + 1920 ∧
    (102528 + 1920 : Int) < 104449 := by decide

theorem witness_WallTargetIsTimeOfDay : 3 ≤ 24 := by decide

/-- A "now" request, a literal one and a wall-clock one, at 48000 Hz single speed. -/
theorem witness_ScheduleArmsOutput :
    (RateIs (requested 0).conf (requested 0).hw.ctl ⟨48000, 1, 0⟩ ∧ (requested 0).rt.pendKind = .now) ∧
    (RateIs at25.conf (after (.ltcStart 0x01000000 0) at25).hw.ctl ⟨48000, 1, 0⟩ ∧
      (after (.ltcStart 0x01000000 0) at25).rt.pendKind = .literal) ∧
    (RateIs at25.conf (after (.ltcStartWall 3600) at25).hw.ctl ⟨48000, 1, 0⟩ ∧
      (after (.ltcStartWall 3600) at25).rt.pendKind = .wall) ∧
    CalibIs (requested 0).conf (requested 0).cfg.fpsCode 0 0 ∧ CalibIs at25.conf at25.cfg.fpsCode 0 0 ∧
    ({ at25 with env := { at25.env with wall := [⟨0, 0⟩] } } : State).env.wall = ⟨0, 0⟩ :: [] := by
  refine ⟨?_, ?_, ?_, ⟨[0, 0, 0], by decide⟩, ⟨[0, 0, 0], by decide⟩, rfl⟩ <;> unfold RateIs <;> decide

theorem witness_AssertionAbandonsOnlyItsStep :
    reservedRate.rt.tcoPresent = true ∧ ¬∃ r, RateIs reservedRate.conf reservedRate.hw.ctl r :=
  ⟨by decide, fun ⟨_, h⟩ => absurd h.1 (by decide)⟩

/-- A rate code that is not reserved; a pending request, armed output, idle output. -/
theorem witness_HookMovesThePhase :
    RateIs armed.conf armed.hw.ctl ⟨48000, 1, 0⟩ ∧
    (Inv (requested 0) ∧ (requested 0).rt.tcoPresent = true ∧ (requested 0).rt.pendKind ≠ .none) ∧
    (Inv armed ∧ armed.rt.tcoPresent = true ∧ armed.rt.pendKind = .none ∧ outPhase armed = some .armed) ∧
    (Inv fresh ∧ fresh.rt.tcoPresent = true ∧ fresh.rt.pendKind = .none ∧ outPhase fresh ≠ some .armed) :=
  ⟨by unfold RateIs; decide, ⟨inv_requested.1, by decide⟩, ⟨inv_armed, by decide⟩, ⟨inv_fresh, by decide⟩⟩

/-- At both ends of the calibration range of R181: 0 and 1920 - 16384. -/
theorem witness_LookAhead :
    (∀ c ∈ [0, -14464], Inv (requested c) ∧ CalibIs (requested c).conf (requested c).cfg.fpsCode 0 c ∧
      (frameSamples 48000 (requested c).cfg.fpsCode : Int) - 16384 ≤ c ∧ c ≤ 0) ∧
    (requested 0).devUp = true ∧ (requested 0).rt.tcoPresent = true ∧ (requested 0).rt.pendKind = .now ∧
    (readAnswer .status (requested 0)).getLsbD (requested 0).conf.irqAudioBit = true ∧
    RateIs (requested 0).conf (requested 0).hw.ctl ⟨48000, 1, 0⟩ ∧
    (after .irq (requested 0)).fc.frameCount.toNat < 2 ^ 63 := by
  refine ⟨?_, by unfold RateIs; decide⟩
  intro c hc
  simp only [List.mem_cons, List.not_mem_nil, or_false] at hc
  rcases hc with rfl | rfl
  · exact ⟨inv_requested.1, ⟨[0, 0, 0], by decide⟩, by decide⟩
  · exact ⟨inv_requested.2, ⟨[-14464, -14464, -14464], by decide⟩, by decide⟩

/-- No module; with one: the largest legal values and one above each, an unchanged and a changed value. -/
theorem witness_TcoCtlSetters_WordClockSetter :
    bare.rt.tcoPresent = false ∧ fresh.devUp = true ∧ fresh.rt.tcoPresent = true ∧
    2 < (3#64).toNat ∧ 3 < (4#64).toNat ∧ 4 < (5#64).toNat ∧ 1 < (2#64).toNat ∧
    (0#64).toNat = fresh.cfg.syncSrc.toNat ∧ (2#64).toNat ≠ fresh.cfg.syncSrc.toNat ∧
    (3#64).toNat ≠ fresh.cfg.fpsCode.toNat ∧ (2#64).toNat ≠ fresh.cfg.srateMode.toNat ∧
    (4#64).toNat ≠ fresh.cfg.pull.toNat ∧ (2#64).toNat ≠ fresh.cfg.wckConv.toNat ∧ fresh.cfg.term75 = false ∧
    fresh.cfg.flywheel = false := by decide

theorem witness_WordClockSetter :
    ∃ t es, exec (.cfgWck 2) fresh = .next t ∧ t.events = fresh.events ++ es ∧ .regwrite .tcoCtl2 2 ∈ es :=
  ⟨after (.cfgWck 2) fresh, news (.cfgWck 2) fresh, rfl, by decide, by decide⟩

theorem witness_RunSetter :
    bare.rt.tcoPresent = false ∧ fresh.devUp = true ∧ fresh.rt.tcoPresent = true ∧ 1 < (2#64).toNat ∧
    fresh.cfg.run = false ∧ armed.devUp = true ∧ armed.rt.tcoPresent = true ∧ armed.cfg.run = true := by decide

theorem witness_StatusSnapshot :
    State.reset.devUp = false ∧ bare.devUp = true ∧ bare.rt.tcoPresent = false ∧ Inv bare :=
  ⟨by decide, by decide, by decide, inv_bare⟩

theorem witness_DevShutdown :
    State.reset.devUp = false ∧ bare.devUp = true ∧ bare.rt.tcoPresent = false ∧ armed.devUp = true ∧
    armed.rt.tcoPresent = true := by decide

theorem witness_InvAtPowerOn : Config.standard.ok = true := by decide

/-- An audio interrupt that arms output. -/
theorem witness_EveryStepKeepsInv :
    ∃ t, Inv { requested 0 with port := [0x10#224] } ∧ step { requested 0 with port := [0x10#224] } = .next t :=
  ⟨_, inv_of_checks _ (by decide) (by unfold SizesFollowLatency ConfigLegal RingSound CodesClean PendingTidy; decide),
    rfl⟩

end Sys2Proof.Tests
end

/-! Idle and refused steps: each check of a configuration (spec/00_scope.md R7) as the constraint it stands for, and the
two ways in which a step executes nothing. -/

namespace Sys2Proof

open Machine

/-! ### The checks of a configuration, one by one -/

theorem Config.familyKnown_iff (c : Config) : c.familyKnown = true ↔ c.family ≠ .unrecognised := by
  simp [Config.familyKnown]

/-- The exponent that the check looks for below 32 is the one R7 asks for, once the value is a `u32`. -/
theorem Config.wrapOk_iff (c : Config) :
    c.wrapOk = true ↔ (∃ k, c.wFixed = 2 ^ k) ∧ 2 * 32 ≤ c.wFixed ∧ c.wFixed < 2 ^ 32 := by
  have hexp (k : Nat) : 2 ^ k < 2 ^ 32 ↔ k < 32 := Nat.pow_lt_pow_iff_right (by omega)
  simp only [Config.wrapOk, Bool.and_eq_true, decide_eq_true_eq, List.any_eq_true, List.mem_range, beq_iff_eq]
  constructor
  · rintro ⟨hmin, k, hk, hw⟩
    exact ⟨⟨k, hw⟩, hmin, hw ▸ (hexp k).2 hk⟩
  · rintro ⟨⟨k, hw⟩, hmin, hmax⟩
    exact ⟨hmin, k, (hexp k).1 (hw ▸ hmax), hw⟩

theorem Config.flagBitOk_iff (c : Config) (b : Nat) : c.flagBitOk b = true ↔ OutsidePointer c b := by
  simp [Config.flagBitOk, OutsidePointer]

theorem Config.pointerOk_iff (c : Config) :
    c.pointerOk = true ↔ c.ptrWidth = 16 ∧ c.ptrShift ≤ 15 ∧ c.ptrLsb + c.ptrWidth ≤ 32 := by
  simp [Config.pointerOk, and_assoc]

theorem Config.flagsOk_iff (c : Config) :
    c.flagsOk = true ↔ OutsidePointer c c.irqAudioBit ∧
      ∀ p, p < c.nMidi → OutsidePointer c (c.irqMidiBit + p) ∧ c.irqMidiBit + p ≠ c.irqAudioBit := by
  simp [Config.flagsOk, Config.flagBitOk_iff]

theorem Config.midiOk_iff (c : Config) : c.midiOk = true ↔ 1 ≤ c.nMidi ∧ c.nMidi ≤ 4 := by
  simp [Config.midiOk]

theorem Config.driftOk_iff (c : Config) : c.driftOk = true ↔ 1 ≤ c.driftN := by
  simp [Config.driftOk]

/-- The shape of `CALIB` (R6) and the bound on its entries (R7), which the check takes together row by row. -/
theorem Config.calibOk_iff (c : Config) :
    c.calibOk = true ↔ (c.calib.length = 4 ∧ ∀ row ∈ c.calib, row.length = 3) ∧
      ∀ row ∈ c.calib, ∀ x ∈ row, x.natAbs < 2 ^ 31 := by
  simp [Config.calibOk, forall_and, and_assoc]

theorem RateEntry.ok_iff (e : RateEntry) :
    e.ok = true ↔ (e.sf = 1 ∨ e.sf = 2 ∨ e.sf = 4) ∧ 32000 ≤ e.sr1 ∧ e.sr1 ≤ 48000 := by
  simp [RateEntry.ok, and_assoc, or_assoc]

/-- The codes that are not reserved (R63): neither half is 3. -/
theorem mem_unreservedCodes_iff (k : Nat) :
    k ∈ [0, 1, 2, 4, 5, 6, 8, 9, 10] ↔ k < 16 ∧ k % 4 ≠ 3 ∧ k / 4 ≠ 3 := by
  simp only [List.mem_cons, List.not_mem_nil, or_false]
  omega

theorem Config.ratesOk_iff (c : Config) :
    c.ratesOk = true ↔ c.rates.length = 16 ∧ ∀ k, k < 16 → k % 4 ≠ 3 → k / 4 ≠ 3 →
      ∃ e, c.rates[k]? = some (some e) ∧ (e.sf = 1 ∨ e.sf = 2 ∨ e.sf = 4) ∧ 32000 ≤ e.sr1 ∧ e.sr1 ≤ 48000 := by
  simp only [Config.ratesOk, Bool.and_eq_true, beq_iff_eq, List.all_eq_true, mem_unreservedCodes_iff, and_imp]
  refine and_congr_right fun _ => forall_congr' fun k => imp_congr_right fun _ => imp_congr_right fun _ =>
    imp_congr_right fun _ => ?_
  rcases c.rates[k]? with _ | _ | e
  · simp
  · simp
  · simp [RateEntry.ok_iff]

theorem Config.addrOk_iff (c : Config) :
    c.addrOk = true ↔ (∀ a ∈ c.addr.all, a % 4 = 0) ∧ c.addr.all.Nodup := by
  simp [Config.addrOk]

theorem Config.wcBitsOk_iff (c : Config) : c.wcBitsOk = true ↔ c.wcBits = 64 := by
  simp [Config.wcBitsOk]

/-! ### The checks together -/

/-- `Config.ok` spelled out: the constraints of R7 and those the model adds, in the order of the two lists. -/
theorem Config.ok_iff (c : Config) : c.ok = true ↔ MeetsR7 c ∧ MeetsModelConstraints c := by
  simp only [Config.ok, Bool.and_eq_true, familyKnown_iff, wrapOk_iff, pointerOk_iff, flagsOk_iff, midiOk_iff,
    driftOk_iff, calibOk_iff, ratesOk_iff, addrOk_iff, wcBitsOk_iff, MeetsR7, MeetsModelConstraints]
  constructor
  · rintro ⟨⟨⟨⟨⟨⟨⟨⟨⟨hfam, hpow, hmin, hmax⟩, hwidth, hshift, hfield⟩, hflags⟩, hmidi⟩, hdrift⟩, hshape, hcal⟩, hrates⟩,
      haddr⟩, hwc⟩
    exact ⟨⟨hpow, hmin, hwidth, hshift, hmidi, hdrift, hcal⟩, hfam, hshape, ⟨hmax, hwc⟩, ⟨hfield, hflags⟩, hrates, haddr⟩
  · rintro ⟨⟨hpow, hmin, hwidth, hshift, hmidi, hdrift, hcal⟩, hfam, hshape, ⟨hmax, hwc⟩, ⟨hfield, hflags⟩, hrates, haddr⟩
    exact ⟨⟨⟨⟨⟨⟨⟨⟨⟨hfam, hpow, hmin, hmax⟩, hwidth, hshift, hfield⟩, hflags⟩, hmidi⟩, hdrift⟩, hshape, hcal⟩, hrates⟩,
      haddr⟩, hwc⟩

end Sys2Proof

namespace Sys2Proof.Machine

/-! ### Steps that execute nothing -/

/-- An ill-formed instance is refused before the port is looked at (R7). -/
theorem step_refused_of_not_ok (s : State) (h : ¬s.conf.ok = true) : step s = .refused .illFormedConfiguration :=
  if_pos (Bool.eq_false_of_not_eq_true h)

/-- With nothing presented a well-formed instance stays where it is (R260). -/
theorem step_idle (s : State) (hok : s.conf.ok = true) (hport : s.port = []) : step s = .next s := by
  simp [step, hok, hport]

/-- Settles O6: the checks of `Config.ok` are the constraints of the two lists, and the two steps follow. -/
theorem stepIdlesAndRefuses : Obligations.StepIdlesAndRefuses := by
  refine ⟨Config.ok_iff, fun s => ⟨fun hR7 => ?_, fun hmodel => ?_, fun hR7 hmodel hport => ?_⟩⟩
  · exact step_refused_of_not_ok s fun hok => hR7 ((Config.ok_iff _).1 hok).1
  · exact step_refused_of_not_ok s fun hok => hmodel ((Config.ok_iff _).1 hok).2
  · exact step_idle s ((Config.ok_iff _).2 ⟨hR7, hmodel⟩) hport

end Sys2Proof.Machine

/-! How the operations end (spec/60_exceptions.md R230, R231): an operation either keeps the state it began in and only
answers, or it has an effect and answers `OK`. `Effect` lists the effects once, one constructor for each way in which an
operation changes the state; what holds after every operation is derived from it. -/

namespace Sys2Proof.Machine

/-! ### Effects that several operations share -/

/-- A new control word, cached and written (10_state R12). -/
def setControl (ctl : Word) (s : State) : State := regWrite .control ctl { s with hw := { s.hw with ctl := ctl } }

/-- A new configuration, carried to the module by `TCO_CTL` and notified (46_config_status R200). -/
def applyCfg (cfg : TcoConfig) (id : BitVec 8) (s : State) : State :=
  emit (.notifyCtl id) (pushTcoCtl { s with cfg := cfg })

/-- What `DEV.SHUTDOWN` makes of a device that is up (R222). -/
def shutDown (s : State) : State :=
  let s1 := shutdownTco s
  let s2 := setControl (stoppedCtl s1.conf.nMidi s1.hw.ctl) s1
  { s2 with devUp := false, sch := { s2.sch with midiPending := Vector.replicate 4 false } }

/-- `Effect s i u`: the operation `i`, carried out in `s`, makes `u` of it, before its result joins. -/
inductive Effect (s : State) : Instr → State → Prop
  | initBare : Effect s (.devInit false) (setControl 0 (initDevice false s))
  | initTco : Effect s (.devInit true) (pushTcoCtl2 (pushTcoCtl (setControl 0 (initDevice true s))))
  | shutdown (up : s.devUp = true) : Effect s .devShutdown (shutDown s)
  | irq (up : s.devUp = true) : Effect s .irq (serviceIrq (takeSnapshot s))
  | midiDone (p : BitVec 2) (up : s.devUp = true) :
      Effect s (.midiDone p) (setControl (ctlSet s.hw.ctl (.ieMidi p.toNat) 1)
        { s with sch := { s.sch with midiPending := setMidiPending s.sch.midiPending p.toNat false } })
  | pollSet (rate : Word) :
      Effect s (.pollSet rate) (emit (.notifyCtl 0x12) { s with sch := { s.sch with pollRate := rate } })
  | attachCapture (present : Bool) :
      Effect s (.pcmAttach .capture present) { s with sch := { s.sch with capPresent := present } }
  | attachPlayback (present : Bool) :
      Effect s (.pcmAttach .playback present) { s with sch := { s.sch with pbPresent := present } }
  | ctlUpdate (mask value : Word) (up : s.devUp = true) (latencyKept : mask &&& 0x0000000e#32 = 0)
      (drainingKept : touchesDraining s mask = false)
      (rateOk : rateValid (rateCode ((s.hw.ctl &&& ~~~mask) ||| (value &&& mask))) = true) :
      Effect s (.ctlUpdate mask value) (setControl ((s.hw.ctl &&& ~~~mask) ||| (value &&& mask)) s)
  | fcSetlat (code : U64) (p : Word) (up : s.devUp = true) (legal : code.toNat ≤ 7)
      (size : periodSizeFromLatency code.toNat s.conf.family = some p) :
      Effect s (.fcSetlat code) (emit .notifyConfig (setControl (ctlSet s.hw.ctl .lat code.toNat)
        { s with fc := { s.fc with periodSize := p, hwBufferSize := wrapPeriod s.conf p } }))
  | fcReset :
      Effect s .fcReset { s with fc := { s.fc with wrapCount := 0, lastHwPointer := 0, frameCount := 0 } }
  | mtcMark (ts : U64) (len : BitVec 4) (bytes : BitVec 80) (ready : tcoUnavailable s = false) :
      Effect s (.mtcMsg ts len bytes) { s with rt := { s.rt with ltcChanged := true } }
  | mtcPush (ts : U64) (len : BitVec 4) (bytes : BitVec 80) (ready : tcoUnavailable s = false) :
      Effect s (.mtcMsg ts len bytes) (driftPush ts { s with rt := { s.rt with ltcChanged := true } })
  | startLiteral (code : Word) (target : U64) (ready : tcoUnavailable s = false) :
      Effect s (.ltcStart code target) (setPending .literal (code &&& ltcClean) target s)
  | startNow (code : Word) (ready : tcoUnavailable s = false) :
      Effect s (.ltcStartNow code) (setPending .now (code &&& ltcClean) 0 s)
  | startWall (seconds : U64) (ready : tcoUnavailable s = false) :
      Effect s (.ltcStartWall seconds) (setPending .wall 0 seconds s)
  | stopIdle (ready : tcoUnavailable s = false) : Effect s .ltcStop (clearPending s)
  | stop (ready : tcoUnavailable s = false) : Effect s .ltcStop (stopOutput (clearPending s))
  | runOffIdle (v : U64) (ready : tcoUnavailable s = false) : Effect s (.cfgRun v) (clearPending s)
  | runOff (v : U64) (ready : tcoUnavailable s = false) :
      Effect s (.cfgRun v) (emit (.notifyCtl 0x56) (stopOutput (clearPending s)))
  | runOn (v : U64) (ready : tcoUnavailable s = false) :
      Effect s (.cfgRun v) (applyCfg { s.cfg with run := true } 0x56 s)
  | cfgSync (v : U64) (ready : tcoUnavailable s = false) (legal : v.toNat ≤ 2) :
      Effect s (.cfgSync v) (applyCfg { s.cfg with syncSrc := v.setWidth 2 } 0x50 s)
  | cfgFps (v : U64) (ready : tcoUnavailable s = false) :
      Effect s (.cfgFps v) (applyCfg { s.cfg with fpsCode := v.setWidth 2 } 0x51 s)
  | cfgSrate (v : U64) (ready : tcoUnavailable s = false) (legal : v.toNat ≤ 2) :
      Effect s (.cfgSrate v) (applyCfg { s.cfg with srateMode := v.setWidth 2 } 0x52 s)
  | cfgPull (v : U64) (ready : tcoUnavailable s = false) (legal : v.toNat ≤ 4) :
      Effect s (.cfgPull v) (applyCfg { s.cfg with pull := v.setWidth 3 } 0x53 s)
  | cfgWck (v : U64) (ready : tcoUnavailable s = false) (legal : v.toNat ≤ 2) :
      Effect s (.cfgWck v)
        (emit (.notifyCtl 0x54) (pushTcoCtl2 { s with cfg := { s.cfg with wckConv := v.setWidth 2 } }))
  | cfgTerm (v : U64) (ready : tcoUnavailable s = false) :
      Effect s (.cfgTerm v) (applyCfg { s.cfg with term75 := v != 0 } 0x55 s)
  | cfgFlywheel (v : U64) (ready : tcoUnavailable s = false) :
      Effect s (.cfgFlywheel v) (applyCfg { s.cfg with flywheel := v != 0 } 0x57 s)

/-- How the operation `i` ends in `s`: the state is kept and answered, or an effect is answered `OK`. `W_RANGE` is no
status, and `E_INVAL` is one of the operations that R231 lists. -/
inductive Ends (i : Instr) (s : State) : StepOutcome → Prop
  | kept (st : Status) (v : Value) (notRange : st ≠ .range) (inval : st = .inval → mayInval i = true) :
      Ends i s (.next (s.answered st false v))
  | done (u : State) (c : Bool) (v : Value) (effect : Effect s i u) : Ends i s (.next (u.answered .ok c v))

/-! ### The ends of the operations, one by one -/

section
variable {i : Instr} {s : State}

theorem Ends.neutral (v : Value) : Ends i s (neutral v s) := .kept .neutral v nofun nofun

theorem Ends.unchanged (v : Value) : Ends i s (answer .ok false v s) := .kept .ok v nofun nofun

theorem Ends.assert : Ends i s (raise .assert s) := .kept .assert .none nofun nofun

theorem Ends.inval (h : mayInval i = true) : Ends i s (raise .inval s) := .kept .inval .none nofun fun _ => h

/-- A setter of the template ends as its four cases say; only the last one has an effect (R200). -/
theorem cfgSetter_ends {legalMax old : Nat} {store push : State → State} {id : BitVec 8} {v : U64}
    (hi : mayInval i = true)
    (he : tcoUnavailable s = false → v.toNat ≤ legalMax → Effect s i (emit (.notifyCtl id) (push (store s)))) :
    Ends i s (cfgSetter legalMax old store push id v s) := by
  rcases cfgSetter_cases legalMax old store push id v s with
    ⟨-, h⟩ | ⟨-, -, h⟩ | ⟨-, -, -, h⟩ | ⟨hready, hlegal, -, h⟩ <;> rw [h]
  · exact .neutral _
  · exact .inval hi
  · exact .unchanged _
  · exact .done _ _ _ (he hready hlegal)

end

theorem execDevInit_ends (t : Bool) (s : State) : Ends (.devInit t) s (execDevInit t s) := by
  cases t
  · exact .done _ _ _ .initBare
  · exact .done _ _ _ .initTco

theorem execDevShutdown_ends (s : State) : Ends .devShutdown s (execDevShutdown s) := by
  unfold execDevShutdown
  split
  · exact .neutral _
  · rename_i up
    exact .done (shutDown s) _ _ (.shutdown (by simpa using up))

/-- Serving an interrupt: the audio step if audio is asserted, then the MIDI step if a port has data (R112). -/
theorem serviceIrq_cases (s : State) :
    ∃ t, (statusAudio s.conf s.hw.status = true ∧ t = audioStep s ∨ statusAudio s.conf s.hw.status = false ∧ t = s) ∧
      (serviceIrq s = midiStep t ∨ serviceIrq s = t) := by
  have midi (t : State) : (if anyMidi t.conf t.hw.status then midiStep t else t) = midiStep t ∨
      (if anyMidi t.conf t.hw.status then midiStep t else t) = t := by
    split
    · exact .inl rfl
    · exact .inr rfl
  unfold serviceIrq
  cases statusAudio s.conf s.hw.status
  · exact ⟨s, .inr ⟨rfl, rfl⟩, midi s⟩
  · exact ⟨audioStep s, .inl ⟨rfl, rfl⟩, midi (audioStep s)⟩

/-- With neither condition there is nothing to serve (R113). -/
theorem serviceIrq_quiet {s : State} (audio : statusAudio s.conf s.hw.status = false)
    (midi : anyMidi s.conf s.hw.status = false) : serviceIrq s = s := by
  simp [serviceIrq, audio, midi]

/-- An `IRQ` of a device that is up serves the snapshot it takes (R112). -/
theorem execIrq_up (s : State) (up : s.devUp = true) :
    ∃ v, execIrq s = answer .ok false v (serviceIrq (takeSnapshot s)) := by
  unfold execIrq
  rw [if_neg (by simp [up])]
  dsimp only
  split
  · exact ⟨_, rfl⟩
  · rename_i quiet
    rw [Bool.not_eq_true, Bool.or_eq_false_iff] at quiet
    exact ⟨notHandled, by rw [serviceIrq_quiet quiet.1 quiet.2]⟩

theorem execIrq_ends (s : State) : Ends .irq s (execIrq s) := by
  cases up : s.devUp
  · rw [execIrq, if_pos up]
    exact .neutral _
  · obtain ⟨v, h⟩ := execIrq_up s up
    exact h ▸ .done _ _ _ (.irq up)

theorem execMidiDone_ends (p : BitVec 2) (s : State) : Ends (.midiDone p) s (execMidiDone p s) := by
  unfold execMidiDone
  split
  · exact .neutral _
  · split
    · exact .inval rfl
    · split
      · exact .unchanged _
      · exact .done _ _ _ (.midiDone p (by simp_all))

theorem execPollSet_ends (rate : Word) (s : State) : Ends (.pollSet rate) s (execPollSet rate s) := by
  unfold execPollSet
  split
  · exact .neutral _
  · split
    · exact .unchanged _
    · exact .done _ _ _ (.pollSet rate)

theorem execPcmAttach_ends (d : Direction) (present : Bool) (s : State) :
    Ends (.pcmAttach d present) s (execPcmAttach d present s) := by
  unfold execPcmAttach
  split
  · exact .neutral _
  · cases d
    · exact .done _ _ _ (.attachCapture present)
    · exact .done _ _ _ (.attachPlayback present)

theorem execCtlUpdate_ends (mask value : Word) (s : State) :
    Ends (.ctlUpdate mask value) s (execCtlUpdate mask value s) := by
  unfold execCtlUpdate
  split
  · exact .neutral _
  · rename_i up
    split
    · exact .inval rfl
    · rename_i latency
      split
      · exact .inval rfl
      · rename_i draining
        dsimp only
        split
        · exact .inval rfl
        · rename_i rate
          split
          · exact .unchanged _
          · exact .done _ _ _ (.ctlUpdate mask value (by simpa using up) (by simpa using latency)
              (by simpa using draining) (by simpa using rate))

theorem execFcSetlat_ends (code : U64) (s : State) : Ends (.fcSetlat code) s (execFcSetlat code s) := by
  unfold execFcSetlat
  split
  · exact .neutral _
  · rename_i up
    split
    · exact .inval rfl
    · rename_i legal
      split
      · exact .unchanged _
      · split
        · exact .assert
        · rename_i p size
          exact .done _ _ _ (.fcSetlat code p (by simpa using up) (by omega) size)

theorem execFcReset_ends (s : State) : Ends .fcReset s (execFcReset s) := by
  unfold execFcReset
  split
  · exact .neutral _
  · exact .done _ _ _ .fcReset

theorem execFcRead_ends (s : State) : Ends .fcRead s (execFcRead s) := by
  unfold execFcRead
  split
  · exact .neutral _
  · exact .unchanged _

theorem execMtcMsg_ends (ts : U64) (len : BitVec 4) (bytes : BitVec 80) (s : State) :
    Ends (.mtcMsg ts len bytes) s (execMtcMsg ts len bytes s) := by
  unfold execMtcMsg
  split
  · exact .neutral _
  · rename_i ready
    have ready : tcoUnavailable s = false := by simpa using ready
    split
    · exact .unchanged _
    · dsimp only
      split
      · exact .done _ _ _ (.mtcPush ts len bytes ready)
      · exact .done _ _ _ (.mtcMark ts len bytes ready)

theorem execLtcStart_ends (code : Word) (target : U64) (s : State) :
    Ends (.ltcStart code target) s (execLtcStart code target s) := by
  unfold execLtcStart
  split
  · exact .neutral _
  · rename_i ready
    split
    · exact .inval rfl
    · exact .done _ _ _ (.startLiteral code target (by simpa using ready))

theorem execLtcStartNow_ends (code : Word) (s : State) : Ends (.ltcStartNow code) s (execLtcStartNow code s) := by
  unfold execLtcStartNow
  split
  · exact .neutral _
  · rename_i ready
    split
    · exact .inval rfl
    · exact .done _ _ _ (.startNow code (by simpa using ready))

theorem execLtcStartWall_ends (seconds : U64) (s : State) :
    Ends (.ltcStartWall seconds) s (execLtcStartWall seconds s) := by
  unfold execLtcStartWall
  split
  · exact .neutral _
  · rename_i ready
    exact .done _ _ _ (.startWall seconds (by simpa using ready))

theorem execLtcStop_ends (s : State) : Ends .ltcStop s (execLtcStop s) := by
  unfold execLtcStop
  split
  · exact .neutral _
  · rename_i ready
    have ready : tcoUnavailable s = false := by simpa using ready
    split
    · exact .done _ _ _ (.stop ready)
    · exact .done _ _ _ (.stopIdle ready)

theorem execCfgSync_ends (v : U64) (s : State) : Ends (.cfgSync v) s (execCfgSync v s) :=
  cfgSetter_ends rfl fun ready legal => .cfgSync v ready legal

theorem execCfgFps_ends (v : U64) (s : State) : Ends (.cfgFps v) s (execCfgFps v s) :=
  cfgSetter_ends rfl fun ready _ => .cfgFps v ready

theorem execCfgSrate_ends (v : U64) (s : State) : Ends (.cfgSrate v) s (execCfgSrate v s) :=
  cfgSetter_ends rfl fun ready legal => .cfgSrate v ready legal

theorem execCfgPull_ends (v : U64) (s : State) : Ends (.cfgPull v) s (execCfgPull v s) :=
  cfgSetter_ends rfl fun ready legal => .cfgPull v ready legal

theorem execCfgWck_ends (v : U64) (s : State) : Ends (.cfgWck v) s (execCfgWck v s) :=
  cfgSetter_ends rfl fun ready legal => .cfgWck v ready legal

theorem execCfgTerm_ends (v : U64) (s : State) : Ends (.cfgTerm v) s (execCfgTerm v s) :=
  cfgSetter_ends rfl fun ready _ => .cfgTerm v ready

theorem execCfgFlywheel_ends (v : U64) (s : State) : Ends (.cfgFlywheel v) s (execCfgFlywheel v s) :=
  cfgSetter_ends rfl fun ready _ => .cfgFlywheel v ready

theorem execCfgRun_ends (v : U64) (s : State) : Ends (.cfgRun v) s (execCfgRun v s) := by
  unfold execCfgRun
  split
  · exact .neutral _
  · rename_i ready
    have ready : tcoUnavailable s = false := by simpa using ready
    split
    · exact .inval rfl
    · split
      · split
        · exact .done _ _ _ (.runOff v ready)
        · exact .done _ _ _ (.runOffIdle v ready)
      · split
        · exact .unchanged _
        · exact .done _ _ _ (.runOn v ready)

theorem execTcoStatus_ends (s : State) : Ends .tcoStatus s (execTcoStatus s) := by
  unfold execTcoStatus
  split
  · exact .neutral _
  · split
    · exact .neutral _
    · exact .unchanged _

/-- Every operation ends in one of the two ways, in every state. -/
theorem exec_ends (i : Instr) (s : State) : Ends i s (exec i s) := by
  cases i with
  | devInit t => exact execDevInit_ends t s
  | devShutdown => exact execDevShutdown_ends s
  | irq => exact execIrq_ends s
  | midiDone p => exact execMidiDone_ends p s
  | pollSet r => exact execPollSet_ends r s
  | pcmAttach d v => exact execPcmAttach_ends d v s
  | ctlUpdate m v => exact execCtlUpdate_ends m v s
  | fcSetlat c => exact execFcSetlat_ends c s
  | fcReset => exact execFcReset_ends s
  | fcRead => exact execFcRead_ends s
  | mtcMsg ts len b => exact execMtcMsg_ends ts len b s
  | ltcStart c t => exact execLtcStart_ends c t s
  | ltcStartNow c => exact execLtcStartNow_ends c s
  | ltcStartWall o => exact execLtcStartWall_ends o s
  | ltcStop => exact execLtcStop_ends s
  | cfgRun v => exact execCfgRun_ends v s
  | tcoStatus => exact execTcoStatus_ends s
  | cfgSync v => exact execCfgSync_ends v s
  | cfgFps v => exact execCfgFps_ends v s
  | cfgSrate v => exact execCfgSrate_ends v s
  | cfgPull v => exact execCfgPull_ends v s
  | cfgWck v => exact execCfgWck_ends v s
  | cfgTerm v => exact execCfgTerm_ends v s
  | cfgFlywheel v => exact execCfgFlywheel_ends v s

/-- A step that does not stop has well-formed parameters; it idles, answers an illegal word, or executes an operation
(20_memory R47, 30_encoding R83). -/
theorem step_cases {s t : State} (h : step s = .next t) :
    s.conf.ok = true ∧
      (t = s ∨
        ∃ cw rest, s.port = cw :: rest ∧
          (t = State.answered { s with port := rest } .inval false .none ∨
            ∃ i, decode cw = .ok i ∧ exec i { s with port := rest } = .next t)) := by
  unfold step at h
  split at h
  · cases h
  · rename_i hok
    refine ⟨by simpa using hok, ?_⟩
    split at h
    · exact .inl (Host.Outcome.next.inj h).symm
    · rename_i cw rest hport
      refine .inr ⟨cw, rest, hport, ?_⟩
      split at h
      · exact .inl (Host.Outcome.next.inj h).symm
      · rename_i i hdec
        exact .inr ⟨i, hdec, h⟩

end Sys2Proof.Machine

/-! What every operation keeps to: parameters and waiting commands are untouched, one result and possibly events join at
the end (spec/10_state.md R36, R37), and only an audio interrupt counts (R19). -/

namespace Sys2Proof.Machine

/-! ### The effects as record updates -/

theorem setControl_eq (ctl : Word) (s : State) :
    setControl ctl s = { s with
      hw := { s.hw with ctl := ctl }
      events := s.events ++ [.regwrite .control ctl] } := rfl

theorem applyCfg_eq (cfg : TcoConfig) (id : BitVec 8) (s : State) :
    applyCfg cfg id s = { s with
      cfg := cfg
      events := s.events ++ [.regwrite .tcoCtl (tcoCtlWord cfg s.rt), .notifyCtl id] } := by
  simp [applyCfg, pushTcoCtl, tcoWrite, regWrite, emit]

/-- Stopping clears the run flag and the set flag in one write of `TCO_CTL` (44_ltc_encoder R178). -/
theorem stopOutput_eq (s : State) :
    stopOutput s = { s with
      cfg := { s.cfg with run := false }
      rt := { s.rt with outArmed := false }
      events := s.events ++
        [.regwrite .tcoCtl (tcoCtlWord { s.cfg with run := false } { s.rt with outArmed := false })] } := by
  simp [stopOutput, pushTcoCtl, tcoWrite, regWrite, emit]

/-- The timecode part of a shutdown, without a module and with one (46_config_status R222). -/
theorem shutdownTco_cases (s : State) :
    (s.rt.tcoPresent = false ∧ shutdownTco s = s) ∨
      (s.rt.tcoPresent = true ∧ ∃ w, shutdownTco s = { s with
        cfg := { s.cfg with run := false }
        rt := TcoRuntime.reset s.conf
        events := s.events ++ [.regwrite .tcoCtl w] }) := by
  unfold shutdownTco
  cases h : s.rt.tcoPresent
  · exact .inl ⟨rfl, rfl⟩
  · exact .inr ⟨rfl, _, rfl⟩

/-- `PULL.UPDATE` changes nothing, or replaces the factor and notifies it (45_drift_estimator R190). -/
theorem pullUpdate_cases (s : State) :
    pullUpdate s = s ∨ ∃ v, pullUpdate s = emit (.notifyPull v) { s with rt := { s.rt with pullFactor := v } } := by
  unfold pullUpdate
  split
  · exact .inl rfl
  · dsimp only
    split
    · exact .inl rfl
    · exact .inr ⟨_, rfl⟩

/-- `DRIFT.PUSH` keeps the first stamp, or pushes a duration and updates the factor (R187, R188). -/
theorem driftPush_cases (ts : U64) (s : State) :
    driftPush ts s = { s with rt := { s.rt with lastMsgNs := ts, lastMsgValid := true } } ∨
      ∃ d, driftPush ts s = pullUpdate { s with rt := ringPush s.conf.driftN { s.rt with lastMsgNs := ts } d } := by
  unfold driftPush
  split
  · exact .inl rfl
  · exact .inr ⟨_, rfl⟩

/-! ### Events are only added at the end (R36) -/

/-- From `s` to `t` parameters, waiting commands and results are untouched and events are only added at the end. -/
structure Appends (s t : State) : Prop where
  conf : t.conf = s.conf
  port : t.port = s.port
  results : t.results = s.results
  events : s.events <+: t.events

theorem Appends.refl (s : State) : Appends s s := ⟨rfl, rfl, rfl, List.prefix_refl _⟩

theorem Appends.trans {s t u : State} (h : Appends s t) (k : Appends t u) : Appends s u :=
  ⟨k.conf.trans h.conf, k.port.trans h.port, k.results.trans h.results, h.events.trans k.events⟩

theorem Appends.emit {s t : State} (h : Appends s t) (e : Event) : Appends s (emit e t) :=
  ⟨h.conf, h.port, h.results, h.events.trans (List.prefix_append _ _)⟩

theorem HookStep.appends {s t : State} (h : HookStep s t) : Appends s t := by
  obtain ⟨es, hes, -⟩ := h.events
  exact ⟨h.conf, h.port, h.results, es, hes.symm⟩

theorem shutdownTco_appends (s : State) : Appends s (shutdownTco s) := by
  rcases shutdownTco_cases s with ⟨-, h⟩ | ⟨-, w, h⟩ <;> rw [h]
  · exact .refl s
  · exact ⟨rfl, rfl, rfl, List.prefix_append _ _⟩

theorem pullUpdate_appends (s : State) : Appends s (pullUpdate s) := by
  rcases pullUpdate_cases s with h | ⟨v, h⟩ <;> rw [h]
  · exact .refl s
  · exact ⟨rfl, rfl, rfl, List.prefix_append _ _⟩

theorem driftPush_appends (ts : U64) (s : State) : Appends s (driftPush ts s) := by
  rcases driftPush_cases ts s with h | ⟨d, h⟩ <;> rw [h]
  · exact ⟨rfl, rfl, rfl, List.prefix_refl _⟩
  · have pushed : Appends s { s with rt := ringPush s.conf.driftN { s.rt with lastMsgNs := ts } d } :=
      ⟨rfl, rfl, rfl, List.prefix_refl _⟩
    exact pushed.trans (pullUpdate_appends _)

theorem audioStep_appends (s : State) : Appends s (audioStep s) := by
  have counted : Appends s (fcUpdate (acknowledge s)) := ⟨rfl, rfl, rfl, List.prefix_append _ _⟩
  have hooked := counted.trans (tcoElapsed_hook (fcUpdate (acknowledge s))).appends
  rw [audioStep_eq]
  refine ⟨hooked.conf, hooked.port, hooked.results, ?_⟩
  simpa only [List.append_assoc] using hooked.events.trans (List.prefix_append _ _)

theorem midiStep_appends (s : State) : Appends s (midiStep s) := by
  obtain ⟨ctl, pend, h, -, -⟩ := midiStep_eq s
  rw [h]
  exact ⟨rfl, rfl, rfl, List.prefix_append _ _⟩

theorem serviceIrq_appends (s : State) : Appends s (serviceIrq s) := by
  obtain ⟨t, haudio, hmidi⟩ := serviceIrq_cases s
  have audio : Appends s t := by
    rcases haudio with ⟨-, rfl⟩ | ⟨-, rfl⟩
    · exact audioStep_appends s
    · exact .refl _
  rcases hmidi with h | h <;> rw [h]
  · exact audio.trans (midiStep_appends t)
  · exact audio

theorem Effect.appends {s u : State} {i : Instr} (h : Effect s i u) : Appends s u := by
  cases h with
  | shutdown =>
    have tco := shutdownTco_appends s
    exact ⟨tco.conf, tco.port, tco.results, tco.events.trans (List.prefix_append _ _)⟩
  | irq =>
    have snapshot : Appends s (takeSnapshot s) := ⟨rfl, rfl, rfl, List.prefix_refl _⟩
    exact snapshot.trans (serviceIrq_appends _)
  | mtcPush ts =>
    have marked : Appends s { s with rt := { s.rt with ltcChanged := true } } := ⟨rfl, rfl, rfl, List.prefix_refl _⟩
    exact marked.trans (driftPush_appends ts _)
  | _ => exact ⟨rfl, rfl, rfl, by simp [setControl_eq, applyCfg_eq, stopOutput_eq]⟩

/-- Settles O14: a kept state and an effect are both answered with one result, and only an effect changes more. -/
theorem everyCommandAnswersOnce : Obligations.EveryCommandAnswersOnce := by
  intro i s
  generalize ho : exec i s = o
  cases ho ▸ exec_ends i s with
  | kept st v notRange inval =>
    exact ⟨_, ⟨st, false, v⟩, [], rfl, rfl, (List.append_nil _).symm, rfl, rfl, notRange, fun _ => rfl, inval⟩
  | done u c v effect =>
    obtain ⟨hconf, hport, hresults, es, hes⟩ := effect.appends
    exact ⟨_, ⟨.ok, c, v⟩, es, rfl, congrArg (· ++ _) hresults, hes.symm, hconf, hport, nofun, fun h => absurd rfl h,
      nofun⟩

/-! ### The interrupt counter (R19, R114) -/

theorem audioStep_irqCount (s : State) : (audioStep s).sch.irqCount = s.sch.irqCount + 1 := by rw [audioStep_eq]

theorem midiStep_irqCount (s : State) : (midiStep s).sch.irqCount = s.sch.irqCount := by
  obtain ⟨ctl, pend, h, -, -⟩ := midiStep_eq s
  rw [h]

/-- Serving an interrupt counts it exactly when audio is asserted. -/
theorem serviceIrq_irqCount (s : State) :
    (serviceIrq s).sch.irqCount =
      if statusAudio s.conf s.hw.status = true then s.sch.irqCount + 1 else s.sch.irqCount := by
  obtain ⟨t, haudio, hmidi⟩ := serviceIrq_cases s
  have counted : (serviceIrq s).sch.irqCount = t.sch.irqCount := by
    rcases hmidi with h | h <;> rw [h]
    exact midiStep_irqCount t
  rw [counted]
  rcases haudio with ⟨asserted, rfl⟩ | ⟨silent, rfl⟩
  · rw [if_pos asserted, audioStep_irqCount]
  · rw [if_neg (by simp [silent])]

theorem shutDown_irqCount (s : State) : (shutDown s).sch.irqCount = s.sch.irqCount := by
  change (shutdownTco s).sch.irqCount = _
  rcases shutdownTco_cases s with ⟨-, h⟩ | ⟨-, w, h⟩ <;> rw [h]

theorem driftPush_sch (ts : U64) (s : State) : (driftPush ts s).sch = s.sch := by
  rcases driftPush_cases ts s with h | ⟨d, h⟩ <;> rw [h]
  rcases pullUpdate_cases { s with rt := ringPush s.conf.driftN { s.rt with lastMsgNs := ts } d } with h | ⟨v, h⟩ <;>
    rw [h]
  rfl

/-- No effect but that of `IRQ` and `DEV.INIT` touches the counter. -/
theorem Effect.irqCount_eq {s u : State} {i : Instr} (h : Effect s i u) (hirq : i ≠ .irq)
    (hinit : ∀ p, i ≠ .devInit p) : u.sch.irqCount = s.sch.irqCount := by
  cases h with
  | initBare => exact absurd rfl (hinit false)
  | initTco => exact absurd rfl (hinit true)
  | irq => exact absurd rfl hirq
  | shutdown => exact shutDown_irqCount s
  | mtcPush ts => rw [driftPush_sch]
  | _ => rfl

/-- `IRQ` counts when the device is up and the snapshot it takes asserts audio. -/
theorem execIrq_irqCount {s t : State} (h : execIrq s = .next t) :
    t.sch.irqCount =
      if s.devUp = true ∧ (readAnswer .status s).getLsbD s.conf.irqAudioBit = true then s.sch.irqCount + 1
      else s.sch.irqCount := by
  cases up : s.devUp
  · rw [execIrq, if_pos up] at h
    cases h
    rfl
  · obtain ⟨v, hv⟩ := execIrq_up s up
    cases hv.symm.trans h
    have counted := serviceIrq_irqCount (takeSnapshot s)
    simp only [true_and]
    exact counted

/-- Settles O19: `IRQ` by the equation of its service, any other operation by its kept state or its effect. -/
theorem irqCountCountsAudioInterrupts : Obligations.IrqCountCountsAudioInterrupts := by
  intro i s t h hinit
  by_cases hirq : i = .irq
  · subst hirq
    simpa only [true_and] using execIrq_irqCount h
  · rw [if_neg fun hc => hirq hc.1]
    cases h ▸ exec_ends i s with
    | kept => rfl
    | done u c v effect => exact effect.irqCount_eq hirq hinit

end Sys2Proof.Machine

/-! The invariant of a run (spec/10_state.md R12 to R31) in two halves that share no field but the parameters and the
device flag: the core (sizes, control word, MIDI marks, frame counter) and the timecode part (configuration and
TcoRuntime). An operation that writes one half leaves the other as it is. -/

namespace Sys2Proof.Machine

/-! ### The last write to a register -/

@[simp] theorem lastWrite_append (r : WriteReg) (es fs : List Event) :
    lastWrite r (es ++ fs) = (lastWrite r fs).or (lastWrite r es) := by
  simp [lastWrite, List.getLast?_append]

@[simp] theorem lastWrite_nil (r : WriteReg) : lastWrite r [] = none := rfl

@[simp] theorem lastWrite_cons (r : WriteReg) (e : Event) (es : List Event) :
    lastWrite r (e :: es) = (lastWrite r es).or (writeTo r e) := by
  cases h : writeTo r e <;> simp [lastWrite, h, List.getLast?_cons]

/-- Events that do not write the register leave its last write. -/
theorem lastWrite_append_of_forall (r : WriteReg) (es fs : List Event) (h : ∀ e ∈ fs, writeTo r e = none) :
    lastWrite r (es ++ fs) = lastWrite r es := by
  have none_written : fs.filterMap (writeTo r) = [] := List.filterMap_eq_nil_iff.mpr h
  simp [lastWrite, none_written]

/-! ### The two halves -/

/-- The half of the invariant that is about the core of the device. -/
structure CoreInv (s : State) : Prop where
  confOk : s.conf.ok = true
  sizes : SizesFollowLatency s
  rate : rateValid (rateCode s.hw.ctl) = true
  draining : DrainingMasked s
  quietDown : s.devUp = false → ∀ p, midiPendingAt s.sch.midiPending p = false
  granular : s.fc.frameCount.toNat % 32 = 0
  cached : ∀ v, lastWrite .control s.events = some v → v = s.hw.ctl
  written : s.devUp = true → lastWrite .control s.events = some s.hw.ctl

/-- The half of the invariant that is about the timecode part. -/
structure TcoInv (s : State) : Prop where
  legal : ConfigLegal s.cfg
  absentDown : s.devUp = false → s.rt.tcoPresent = false
  absent : s.rt.tcoPresent = false → s.rt = TcoRuntime.reset s.conf
  unset : s.devUp = true → s.rt.tcoPresent = false → s.cfg = TcoConfig.reset
  armedRuns : s.rt.outArmed = true → s.cfg.run = true
  ring : RingSound s.conf.driftN s.rt
  clean : CodesClean s.rt
  pending : PendingTidy s.rt
  mirror : s.rt.tcoPresent = true →
    lastWrite .tcoCtl s.events = some (tcoCtlWord s.cfg s.rt) ∧ lastWrite .tcoCtl2 s.events = some (tcoCtl2Word s.cfg)

theorem inv_iff (s : State) : Inv s ↔ CoreInv s ∧ TcoInv s := by
  constructor
  · intro h
    obtain ⟨hcached, hwritten, hmirror⟩ := h.mirror
    exact ⟨⟨h.confOk, h.sizes, h.rate, h.draining, fun hd => (h.down hd).2, h.granular, hcached, hwritten⟩,
      h.legal, fun hd => (h.down hd).1, h.absent, h.unset, h.armedRuns, h.ring, h.clean, h.pending, hmirror⟩
  · rintro ⟨core, tco⟩
    exact ⟨core.confOk, core.sizes, core.rate, core.draining, tco.legal,
      fun hd => ⟨tco.absentDown hd, core.quietDown hd⟩, tco.absent, tco.unset, tco.armedRuns, tco.ring, tco.clean,
      tco.pending, core.granular, core.cached, core.written, tco.mirror⟩

/-! ### What each half looks at -/

/-- `t` agrees with `s` in all that the core half looks at. -/
structure SameCore (s t : State) : Prop where
  conf : t.conf = s.conf
  devUp : t.devUp = s.devUp
  ctl : t.hw.ctl = s.hw.ctl
  fc : t.fc = s.fc
  midiPending : t.sch.midiPending = s.sch.midiPending
  lastControl : lastWrite .control t.events = lastWrite .control s.events

/-- `t` agrees with `s` in all that the timecode half looks at. -/
structure SameTco (s t : State) : Prop where
  conf : t.conf = s.conf
  devUp : t.devUp = s.devUp
  cfg : t.cfg = s.cfg
  rt : t.rt = s.rt
  lastCtl : lastWrite .tcoCtl t.events = lastWrite .tcoCtl s.events
  lastCtl2 : lastWrite .tcoCtl2 t.events = lastWrite .tcoCtl2 s.events

section
variable {s t : State}

theorem CoreInv.congr (h : CoreInv s) (e : SameCore s t) : CoreInv t where
  confOk := e.conf ▸ h.confOk
  sizes := by simpa only [SizesFollowLatency, e.conf, e.ctl, e.fc] using h.sizes
  rate := e.ctl ▸ h.rate
  draining := by simpa only [DrainingMasked, e.conf, e.ctl, e.midiPending] using h.draining
  quietDown := by simpa only [e.devUp, e.midiPending] using h.quietDown
  granular := e.fc ▸ h.granular
  cached := by simpa only [e.lastControl, e.ctl] using h.cached
  written := by simpa only [e.devUp, e.lastControl, e.ctl] using h.written

theorem TcoInv.congr (h : TcoInv s) (e : SameTco s t) : TcoInv t where
  legal := e.cfg ▸ h.legal
  absentDown := by simpa only [e.devUp, e.rt] using h.absentDown
  absent := by simpa only [e.rt, e.conf] using h.absent
  unset := by simpa only [e.devUp, e.rt, e.cfg] using h.unset
  armedRuns := by simpa only [e.rt, e.cfg] using h.armedRuns
  ring := by simpa only [e.conf, e.rt] using h.ring
  clean := e.rt ▸ h.clean
  pending := e.rt ▸ h.pending
  mirror := by simpa only [e.rt, e.cfg, e.lastCtl, e.lastCtl2] using h.mirror

/-- What neither half looks at may change freely: inputs, waiting commands, results, and any event but a write to
`CONTROL`, `TCO_CTL` or `TCO_CTL2`. -/
theorem Inv.congr (h : Inv s) (core : SameCore s t) (tco : SameTco s t) : Inv t :=
  have halves := (inv_iff s).mp h
  (inv_iff t).mpr ⟨halves.1.congr core, halves.2.congr tco⟩

/-- A change of the core alone. -/
theorem Inv.of_core (h : Inv s) (core : CoreInv t) (tco : SameTco s t) : Inv t :=
  (inv_iff t).mpr ⟨core, ((inv_iff s).mp h).2.congr tco⟩

/-- A change of the timecode part alone. -/
theorem Inv.of_tco (h : Inv s) (core : SameCore s t) (tco : TcoInv t) : Inv t :=
  (inv_iff t).mpr ⟨((inv_iff s).mp h).1.congr core, tco⟩

theorem Inv.answered (h : Inv s) (st : Status) (c : Bool) (v : Value) : Inv (s.answered st c v) :=
  h.congr ⟨rfl, rfl, rfl, rfl, rfl, rfl⟩ ⟨rfl, rfl, rfl, rfl, rfl, rfl⟩

/-- An event that is no register write. -/
theorem Inv.emitted (h : Inv s) (e : Event) (unwritten : ∀ r, writeTo r e = none) : Inv (emit e s) :=
  h.congr ⟨rfl, rfl, rfl, rfl, rfl, by simp [unwritten]⟩
    ⟨rfl, rfl, rfl, rfl, by simp [unwritten], by simp [unwritten]⟩

/-- On a device that is up the core half is what a write of `CONTROL` must establish. -/
theorem CoreInv.of_written (confOk : s.conf.ok = true) (up : s.devUp = true) (sizes : SizesFollowLatency s)
    (rate : rateValid (rateCode s.hw.ctl) = true) (draining : DrainingMasked s)
    (granular : s.fc.frameCount.toNat % 32 = 0) (written : lastWrite .control s.events = some s.hw.ctl) :
    CoreInv s where
  confOk := confOk
  sizes := sizes
  rate := rate
  draining := draining
  quietDown := fun down => absurd (up.symm.trans down) nofun
  granular := granular
  cached := fun _ hv => (Option.some.inj (written.symm.trans hv)).symm
  written := fun _ => written

/-- With a module the timecode half is what a push of the control words must establish. -/
theorem TcoInv.of_present (up : s.devUp = true) (present : s.rt.tcoPresent = true) (legal : ConfigLegal s.cfg)
    (armedRuns : s.rt.outArmed = true → s.cfg.run = true) (ring : RingSound s.conf.driftN s.rt)
    (clean : CodesClean s.rt) (pending : PendingTidy s.rt)
    (ctl : lastWrite .tcoCtl s.events = some (tcoCtlWord s.cfg s.rt))
    (ctl2 : lastWrite .tcoCtl2 s.events = some (tcoCtl2Word s.cfg)) : TcoInv s where
  legal := legal
  absentDown := fun down => absurd (up.symm.trans down) nofun
  absent := fun absent => absurd (present.symm.trans absent) nofun
  unset := fun _ absent => absurd (present.symm.trans absent) nofun
  armedRuns := armedRuns
  ring := ring
  clean := clean
  pending := pending
  mirror := fun _ => ⟨ctl, ctl2⟩

end

/-! ### Reset values (10_state R38) -/

section
variable {s : State} {c : Config}

theorem midiPendingAt_replicate_false (p : Nat) : midiPendingAt (Vector.replicate 4 false) p = false := by
  by_cases h : p < 4 <;> simp [midiPendingAt, h]

/-- The empty ring of a well-formed configuration is sound (R31). -/
theorem ringSound_reset (h : c.ok = true) (present : Bool) :
    RingSound c.driftN { TcoRuntime.reset c with tcoPresent := present } := by
  have hn : 1 ≤ c.driftN := by
    obtain ⟨⟨-, -, -, -, -, hdrift, -⟩, -⟩ := (Config.ok_iff c).mp h
    exact hdrift
  exact ⟨by simp [TcoRuntime.reset], hn, Nat.zero_le _, fun _ => rfl, rfl⟩

theorem codesClean_reset : CodesClean (TcoRuntime.reset c) :=
  have zero_clean : (0 : Word) &&& ~~~ltcClean = 0 := by decide
  ⟨zero_clean, zero_clean, zero_clean⟩

/-- The reset sizes are those of latency code 0, for both families (R14, R15). -/
theorem sizesFollowLatency_reset (h : s.conf.ok = true) (hctl : s.hw.ctl = 0) (hfc : s.fc = FrameCounter.reset s.conf) :
    SizesFollowLatency s := by
  have known : s.conf.family ≠ .unrecognised := ((Config.ok_iff _).mp h).2.1
  unfold SizesFollowLatency
  rw [hctl, hfc]
  cases hf : s.conf.family with
  | legacy => exact ⟨rfl, by simp [FrameCounter.reset, wrapPeriod, hf]⟩
  | new => exact ⟨rfl, by simp [FrameCounter.reset, wrapPeriod, hf]⟩
  | unrecognised => exact absurd hf known

theorem drainingMasked_of_quiet (h : ∀ p, midiPendingAt s.sch.midiPending p = false) : DrainingMasked s :=
  fun p hp => absurd ((h p).symm.trans hp) nofun

/-- The core at its reset values. -/
theorem CoreInv.of_reset (h : s.conf.ok = true) (hctl : s.hw.ctl = 0) (hfc : s.fc = FrameCounter.reset s.conf)
    (hsch : s.sch = Scheduler.reset) (cached : ∀ v, lastWrite .control s.events = some v → v = 0)
    (written : s.devUp = true → lastWrite .control s.events = some 0) : CoreInv s :=
  have quiet : ∀ p, midiPendingAt s.sch.midiPending p = false := by
    rw [hsch]; exact midiPendingAt_replicate_false
  { confOk := h
    sizes := sizesFollowLatency_reset h hctl hfc
    rate := by rw [hctl]; decide
    draining := drainingMasked_of_quiet quiet
    quietDown := fun _ => quiet
    granular := by rw [hfc]; rfl
    cached := hctl ▸ cached
    written := hctl ▸ written }

/-- The timecode part without a module: the TcoRuntime at reset, the configuration too while the device is up. -/
theorem TcoInv.of_absent (h : s.conf.ok = true) (hrt : s.rt = TcoRuntime.reset s.conf) (legal : ConfigLegal s.cfg)
    (unset : s.devUp = true → s.cfg = TcoConfig.reset) : TcoInv s where
  legal := legal
  absentDown := fun _ => by rw [hrt]; rfl
  absent := fun _ => hrt
  unset := fun up _ => unset up
  armedRuns := fun armed => absurd armed (by simp [hrt, TcoRuntime.reset])
  ring := hrt ▸ ringSound_reset h false
  clean := hrt ▸ codesClean_reset
  pending := by rw [hrt]; exact ⟨fun _ => ⟨rfl, rfl⟩, nofun, nofun⟩
  mirror := fun present => absurd present (by simp [hrt, TcoRuntime.reset])

theorem configLegal_reset : ConfigLegal TcoConfig.reset := ⟨by decide, by decide, by decide, by decide⟩

theorem inv_powerOn (h : c.ok = true) : Inv (State.powerOn c) :=
  (inv_iff _).mpr ⟨.of_reset h rfl rfl rfl nofun nofun, .of_absent h rfl configLegal_reset fun _ => rfl⟩

end

/-- Settles O58. -/
theorem resetValues : Obligations.ResetValues :=
  fun _ => ⟨rfl, rfl, rfl, rfl, midiPendingAt_replicate_false, rfl, rfl, rfl, rfl, rfl, rfl⟩

/-- Settles O59: both halves of the invariant at their reset values. -/
theorem invAtPowerOn : Obligations.InvAtPowerOn := ⟨fun _ => inv_powerOn, inv_powerOn (by decide)⟩

end Sys2Proof.Machine

/-! The timecode half of the invariant through every step that writes it: the output requests and their cancellation,
the setters, the drift ring, and the three steps of the timecode hook. -/

namespace Sys2Proof.Machine

/-! ### The drift ring (spec/45_drift_estimator.md R187) -/

/-- Replacing one summand of a list. -/
theorem sum_set_eq (l : List U64) (k : Nat) (d : U64) (h : k < l.length) :
    (l.set k d).sum = l.sum - l.getD k 0 + d := by
  rw [List.sum_set', dif_pos h, List.getD_eq_getElem _ _ h]
  abel

/-- Storing behind the first slots and taking one slot more. -/
theorem take_succ_set (l : List U64) (k : Nat) (d : U64) (h : k < l.length) :
    (l.set k d).take (k + 1) = l.take k ++ [d] := by
  rw [List.take_add_one, List.take_set_of_le (le_refl k)]
  simp [h]

/-- A push keeps the ring sound: while it fills, the new slot is behind the valid ones and joins the sum; once full, the
oldest slot leaves the sum and is reused. -/
theorem RingSound.ringPush {n : Nat} {rt : TcoRuntime} (h : RingSound n rt) (d : U64) :
    RingSound n (ringPush n rt d) := by
  obtain ⟨hlen, hpos, hcnt, hfilling, hsum⟩ := h
  have hset : rt.ringPos < rt.ring.length := hlen ▸ hpos
  by_cases full : rt.ringCnt = n
  · refine ⟨by simp [Machine.ringPush, hlen], Nat.mod_lt _ (by omega), by simp [Machine.ringPush, full],
      fun hlt => absurd hlt (by simp [Machine.ringPush, full]), ?_⟩
    have all : ∀ l : List U64, l.length = rt.ring.length → l.take rt.ringCnt = l := fun l hl =>
      List.take_of_length_le (by omega)
    rw [all _ rfl] at hsum
    simp only [Machine.ringPush, full, beq_self_eq_true, if_true]
    rw [← full, all _ List.length_set, sum_set_eq _ _ _ hset, hsum]
  · have hlt : rt.ringCnt < n := by omega
    have hbehind := hfilling hlt
    simp only [Machine.ringPush, RingSound, beq_false_of_ne full, List.length_set, Bool.false_eq_true, if_false]
    refine ⟨hlen, Nat.mod_lt _ (by omega), hlt, fun hstill => ?_, ?_⟩
    · rw [hbehind]
      exact Nat.mod_eq_of_lt hstill
    · rw [hsum, ← hbehind, take_succ_set _ _ _ hset, List.sum_append, List.sum_singleton]

/-! ### Clean codes (30_encoding R67) -/

theorem and_ltcClean_clean (c : Word) : (c &&& ltcClean) &&& ~~~ltcClean = 0 := by
  rw [BitVec.and_assoc, show ltcClean &&& ~~~ltcClean = 0#32 by decide, BitVec.and_zero]
  rfl

/-- A packed code has no sync or reserved bit. -/
theorem ltcPack_clean (x : LtcFields) : ltcPack x &&& ~~~ltcClean = 0 := by
  apply BitVec.eq_of_getLsbD_eq
  intro b hb
  rw [BitVec.getLsbD_and, BitVec.getLsbD_not, ltcClean_getLsbD _ hb, ltcPack_getLsbD _ _ hb]
  interval_cases b <;> simp

/-! ### Steps of a device that is up, with a module -/

section
variable {s : State}

theorem TcoInv.up_of_present (h : TcoInv s) (present : s.rt.tcoPresent = true) : s.devUp = true := by
  by_contra down
  exact absurd (present.symm.trans (h.absentDown (by simpa using down))) nofun

theorem TcoInv.latchClear (h : TcoInv s) (present : s.rt.tcoPresent = true) : TcoInv (latchClear s) := by
  rcases latchClear_cases s with ⟨-, e⟩ | ⟨-, e⟩ <;> rw [e]
  · exact h
  · exact .of_present (h.up_of_present present) present h.legal nofun h.ring h.clean h.pending (by simp [writeTo])
      (Eq.trans (by simp [writeTo]) (h.mirror present).2)

/-- The abandoned step only says so (43_ltc_decoder R148). -/
theorem TcoInv.faultAssert (h : TcoInv s) : TcoInv (emit .faultAssert s) :=
  h.congr ⟨rfl, rfl, rfl, rfl, by simp [writeTo], by simp [writeTo]⟩

theorem TcoInv.publishInbound (h : TcoInv s) (present : s.rt.tcoPresent = true) (ltcIn tcoStat : Word) (sf : Nat) :
    TcoInv (publishInbound ltcIn tcoStat sf s) :=
  .of_present (h.up_of_present present) present h.legal h.armedRuns h.ring
    ⟨ltcPack_clean _, h.clean.2⟩ h.pending (h.mirror present).1 (h.mirror present).2

theorem TcoInv.inboundStep (h : TcoInv s) (present : s.rt.tcoPresent = true) : TcoInv (inboundStep s) := by
  unfold Machine.inboundStep
  split
  · rcases inboundDecode_cases s with ⟨-, e⟩ | ⟨r, -, e⟩ <;> rw [e]
    · exact h.faultAssert
    · have read : TcoInv (afterRead .tcoStat (afterRead .tcoLtcIn s)) := h.congr ⟨rfl, rfl, rfl, rfl, rfl, rfl⟩
      exact read.publishInbound present _ _ _
  · exact h

theorem TcoInv.scheduleWith (h : TcoInv s) (present : s.rt.tcoPresent = true) (r : SysRate) (cal : Int) :
    TcoInv (scheduleWith s r cal) := by
  have unwritten : ∀ (p : Prop) [Decidable p] (v : Int),
      lastWrite .tcoCtl2 (if p then [.warnOffset v] else []) = none := by
    intro p _ v
    split <;> rfl
  rw [scheduleWith_eq]
  exact .of_present (h.up_of_present present) present h.legal (fun _ => rfl) h.ring
    ⟨h.clean.1, BitVec.zero_and, outCode_clean _ _⟩ ⟨fun _ => ⟨rfl, rfl⟩, nofun, nofun⟩ (by simp [writeTo])
    (Eq.trans (by simp [writeTo, unwritten]) (h.mirror present).2)

theorem TcoInv.outboundStep (h : TcoInv s) (present : s.rt.tcoPresent = true) : TcoInv (outboundStep s) := by
  unfold Machine.outboundStep
  split
  · exact h
  · rcases schedule_cases s with e | ⟨r, cal, -, -, e⟩ <;> rw [e]
    · exact h.faultAssert
    · exact h.scheduleWith present r cal

/-- The timecode hook keeps the timecode half: its three steps do, and none of them removes the module. -/
theorem TcoInv.tcoElapsed (h : TcoInv s) : TcoInv (tcoElapsed s) := by
  unfold Machine.tcoElapsed
  split
  · exact h
  · rename_i present
    have present : s.rt.tcoPresent = true := by simpa using present
    have cleared := (latchClear_hook s).present.trans present
    have decoded := (inboundStep_hook _).present.trans cleared
    exact ((h.latchClear present).inboundStep cleared).outboundStep decoded

/-- The hook does not touch the core: it writes no `CONTROL`. -/
theorem HookStep.sameCore {t : State} (h : HookStep s t) : SameCore s t := by
  obtain ⟨es, hes, hkind⟩ := h.events
  have unwritten : ∀ e ∈ es, writeTo .control e = none := by
    intro e he
    have kind := (hkind e he).1
    match e, kind with
    | .regwrite .tcoLtcOut _, _ => rfl
    | .regwrite .tcoCtl _, _ => rfl
    | .warnOffset _, _ => rfl
    | .faultAssert, _ => rfl
  exact ⟨h.conf, h.devUp, congrArg _ h.hw, h.fc, congrArg _ h.sch, hes ▸ lastWrite_append_of_forall _ _ _ unwritten⟩

theorem Inv.tcoElapsed (h : Inv s) : Inv (tcoElapsed s) :=
  h.of_tco (tcoElapsed_hook s).sameCore ((inv_iff s).mp h).2.tcoElapsed

end

/-! ### Commands that find a module -/

section
variable {s : State}

/-- A module-only change of a state with the invariant: what is left to show when the core is untouched. -/
theorem Inv.of_ready {t : State} (h : Inv s) (ready : tcoUnavailable s = false) (core : SameCore s t)
    (present : t.rt.tcoPresent = s.rt.tcoPresent) (legal : ConfigLegal t.cfg)
    (armedRuns : t.rt.outArmed = true → t.cfg.run = true) (ring : RingSound s.conf.driftN t.rt)
    (clean : CodesClean t.rt) (pending : PendingTidy t.rt)
    (ctl : lastWrite .tcoCtl s.events = some (tcoCtlWord s.cfg s.rt) →
      lastWrite .tcoCtl t.events = some (tcoCtlWord t.cfg t.rt))
    (ctl2 : lastWrite .tcoCtl2 s.events = some (tcoCtl2Word s.cfg) →
      lastWrite .tcoCtl2 t.events = some (tcoCtl2Word t.cfg)) : Inv t := by
  obtain ⟨up, hp⟩ := (tcoUnavailable_eq_false s).mp ready
  obtain ⟨mirror, mirror2⟩ := ((inv_iff s).mp h).2.mirror hp
  exact h.of_tco core (.of_present (core.devUp.trans up) (present.trans hp) legal armedRuns (core.conf ▸ ring) clean
    pending (ctl mirror) (ctl2 mirror2))

theorem Inv.setPending (h : Inv s) (ready : tcoUnavailable s = false) (kind : PendKind) (code : Word) (target : U64)
    (clean : code &&& ~~~ltcClean = 0)
    (tidy : (kind = .none → code = 0 ∧ target = 0) ∧ (kind = .now → target = 0) ∧ (kind = .wall → code = 0)) :
    Inv (setPending kind code target s) :=
  have ⟨inbound, _, out⟩ := h.clean
  h.of_ready ready ⟨rfl, rfl, rfl, rfl, rfl, rfl⟩ rfl h.legal h.armedRuns h.ring ⟨inbound, clean, out⟩ tidy id id

theorem Inv.clearPending (h : Inv s) (ready : tcoUnavailable s = false) : Inv (clearPending s) :=
  h.setPending ready .none 0 0 BitVec.zero_and ⟨fun _ => ⟨rfl, rfl⟩, nofun, nofun⟩

theorem Inv.stopOutput (h : Inv s) (ready : tcoUnavailable s = false) : Inv (stopOutput s) := by
  rw [stopOutput_eq]
  exact h.of_ready ready ⟨rfl, rfl, rfl, rfl, rfl, by simp [writeTo]⟩ rfl h.legal nofun h.ring h.clean h.pending
    (fun _ => by simp [writeTo]) (Eq.trans (by simp [writeTo]))

/-- A setter that `TCO_CTL` carries: the new configuration is legal, keeps running output running, and leaves the word
of `TCO_CTL2`. -/
theorem Inv.applyCfg (h : Inv s) (ready : tcoUnavailable s = false) (cfg : TcoConfig) (id : BitVec 8)
    (legal : ConfigLegal cfg) (runs : s.cfg.run = true → cfg.run = true) (wck : cfg.wckConv = s.cfg.wckConv) :
    Inv (applyCfg cfg id s) := by
  rw [applyCfg_eq]
  exact h.of_ready ready ⟨rfl, rfl, rfl, rfl, rfl, by simp [writeTo]⟩ rfl legal (fun armed => runs (h.armedRuns armed))
    h.ring h.clean h.pending (fun _ => by simp [writeTo])
    (fun mirror => by simpa [writeTo, tcoCtl2Word, wck] using mirror)

theorem Inv.setWordClock (h : Inv s) (ready : tcoUnavailable s = false) (w : BitVec 2) (legal : w.toNat ≤ 2)
    (id : BitVec 8) :
    Inv (emit (.notifyCtl id) (pushTcoCtl2 { s with cfg := { s.cfg with wckConv := w } })) := by
  obtain ⟨hsync, hsrate, hpull, -⟩ := h.legal
  exact h.of_ready ready ⟨rfl, rfl, rfl, rfl, rfl, by simp [writeTo]⟩ rfl ⟨hsync, hsrate, hpull, legal⟩ h.armedRuns
    h.ring h.clean h.pending (Eq.trans (by simp [writeTo])) (fun _ => by simp [writeTo])

theorem Inv.ltcChanged (h : Inv s) (ready : tcoUnavailable s = false) (b : Bool) :
    Inv { s with rt := { s.rt with ltcChanged := b } } :=
  h.of_ready ready ⟨rfl, rfl, rfl, rfl, rfl, rfl⟩ rfl h.legal h.armedRuns h.ring h.clean h.pending id id

theorem Inv.pullUpdate (h : Inv s) (ready : tcoUnavailable s = false) : Inv (pullUpdate s) := by
  rcases pullUpdate_cases s with e | ⟨v, e⟩ <;> rw [e]
  · exact h
  · exact h.of_ready ready ⟨rfl, rfl, rfl, rfl, rfl, by simp [writeTo]⟩ rfl h.legal h.armedRuns h.ring h.clean h.pending
      (Eq.trans (by simp [writeTo])) (Eq.trans (by simp [writeTo]))

theorem Inv.driftPush (h : Inv s) (ready : tcoUnavailable s = false) (ts : U64) : Inv (driftPush ts s) := by
  rcases driftPush_cases ts s with e | ⟨d, e⟩ <;> rw [e]
  · exact h.of_ready ready ⟨rfl, rfl, rfl, rfl, rfl, rfl⟩ rfl h.legal h.armedRuns h.ring h.clean h.pending id id
  · have ring : RingSound s.conf.driftN { s.rt with lastMsgNs := ts } := h.ring
    have pushed : Inv { s with rt := ringPush s.conf.driftN { s.rt with lastMsgNs := ts } d } :=
      h.of_ready ready ⟨rfl, rfl, rfl, rfl, rfl, rfl⟩ rfl h.legal h.armedRuns (ring.ringPush d) h.clean h.pending id id
    exact pushed.pullUpdate ready

end

end Sys2Proof.Machine

/-! The core half of the invariant through every step that writes it, and the invariant through every operation and
every step. -/

namespace Sys2Proof.Machine

/-! ### The fields of a control word that a write keeps (spec/30_encoding.md R61) -/

theorem ctlGet_ieMidi_congr {w w' : Word} {p : Nat} (h : w'.getLsbD (22 + p) = w.getLsbD (22 + p)) :
    ctlGet w' (.ieMidi p) = 0 ↔ ctlGet w (.ieMidi p) = 0 := by
  rw [ctlGet_ieMidi_eq_zero, ctlGet_ieMidi_eq_zero, h]

/-- `w'` has the latency code and the rate code of `w`: it differs in other bits only. -/
structure SameCodes (w w' : Word) : Prop where
  lat : ∀ b, 1 ≤ b → b < 4 → w'.getLsbD b = w.getLsbD b
  rate : ∀ b, 6 ≤ b → b < 10 → w'.getLsbD b = w.getLsbD b

theorem ctlSet_ieMidi_sameCodes (w : Word) (p v : Nat) : SameCodes w (ctlSet w (.ieMidi p) v) := by
  have other (b : Nat) (hb : b < 22) : (ctlSet w (.ieMidi p) v).getLsbD b = w.getLsbD b := by
    rw [ctlSet_ieMidi_getLsbD _ _ _ _ (by omega), if_neg (by omega)]
  exact ⟨fun b _ hb => other b (by omega), fun b _ hb => other b (by omega)⟩

theorem stoppedCtl_sameCodes (n : Nat) (w : Word) : SameCodes w (stoppedCtl n w) := by
  have other (b : Nat) (h0 : b ≠ 0) (h5 : b ≠ 5) (h22 : b < 22) : (stoppedCtl n w).getLsbD b = w.getLsbD b := by
    have kept : b ≠ 0 ∧ b ≠ 5 ∧ ¬(22 ≤ b ∧ b < 22 + n) := ⟨h0, h5, by omega⟩
    rw [stoppedCtl_getLsbD _ _ _ (by omega), decide_eq_true kept, Bool.and_true]
  exact ⟨fun b _ _ => other b (by omega) (by omega) (by omega), fun b _ _ => other b (by omega) (by omega) (by omega)⟩

/-- A control word with the latency and rate codes of a state with the invariant keeps what depends on them. -/
theorem CoreInv.codes_kept {s t : State} (h : CoreInv s) (codes : SameCodes s.hw.ctl t.hw.ctl) (conf : t.conf = s.conf)
    (fc : t.fc = s.fc) : SizesFollowLatency t ∧ rateValid (rateCode t.hw.ctl) = true := by
  refine ⟨?_, ?_⟩
  · have sizes := h.sizes
    simp only [SizesFollowLatency, conf, fc, ctlGet_lat_congr _ _ codes.lat] at sizes ⊢
    exact sizes
  · rw [rateCode_congr _ _ codes.rate]
    exact h.rate

/-! ### The steps that write `CONTROL` -/

section
variable {s : State}

theorem portCount_le (h : s.conf.ok = true) : s.conf.nMidi ≤ 4 := by
  obtain ⟨⟨-, -, -, -, ⟨-, hports⟩, -⟩, -⟩ := (Config.ok_iff _).mp h
  exact hports

theorem midiPendingAt_lt {v : Vector Bool 4} {p : Nat} (h : midiPendingAt v p = true) : p < 4 := by
  by_contra hp
  simp [midiPendingAt, show 4 ≤ p by omega] at h

theorem midiPendingAt_setMidiPending_false (v : Vector Bool 4) (p q : Nat) :
    midiPendingAt (setMidiPending v p false) q = true ↔ q ≠ p ∧ midiPendingAt v q = true := by
  by_cases hq : q = p
  · subst hq
    by_cases hlt : q < 4 <;> simp [midiPendingAt, setMidiPending, hlt]
  · simp [midiPendingAt, setMidiPending, hq, Ne.symm hq]

/-- A finished port is unmasked and no longer marked; the others stay masked (41_interrupt_scheduler R120). -/
theorem Inv.midiDone (h : Inv s) (up : s.devUp = true) (p : Nat) :
    Inv (setControl (ctlSet s.hw.ctl (.ieMidi p) 1)
      { s with sch := { s.sch with midiPending := setMidiPending s.sch.midiPending p false } }) := by
  have core := ((inv_iff s).mp h).1
  obtain ⟨sizes, rate⟩ := core.codes_kept (t := setControl (ctlSet s.hw.ctl (.ieMidi p) 1) s)
    (ctlSet_ieMidi_sameCodes _ p 1) rfl rfl
  refine h.of_core (.of_written h.confOk up sizes rate (fun q hq => ?_) h.granular (by simp [setControl_eq, writeTo]))
    ⟨rfl, rfl, rfl, rfl, by simp [setControl_eq, writeTo], by simp [setControl_eq, writeTo]⟩
  obtain ⟨hne, hpending⟩ := (midiPendingAt_setMidiPending_false _ _ _).mp hq
  obtain ⟨hport, hmasked⟩ := h.draining q hpending
  have hq4 := midiPendingAt_lt hpending
  refine ⟨hport, (ctlGet_ieMidi_congr ?_).mpr hmasked⟩
  change (ctlSet s.hw.ctl (.ieMidi p) 1).getLsbD (22 + q) = _
  rw [ctlSet_ieMidi_getLsbD _ _ _ _ (by omega), if_neg (by omega)]

/-- A mask that keeps off the latency field keeps its three bits. -/
theorem latencyBit_of_mask {mask : Word} (h : mask &&& 0x0000000e#32 = 0) (b : Nat) (h1 : 1 ≤ b) (h4 : b < 4) :
    mask.getLsbD b = false := by
  have hbit : (mask &&& 0x0000000e#32).getLsbD b = (0 : Word).getLsbD b := by rw [h]
  interval_cases b <;> simpa using hbit

theorem getLsbD_masked (w mask value : Word) (b : Nat) (h : mask.getLsbD b = false) :
    ((w &&& ~~~mask) ||| (value &&& mask)).getLsbD b = w.getLsbD b := by
  by_cases hb : b < 32
  · simp only [BitVec.getLsbD_or, BitVec.getLsbD_and, BitVec.getLsbD_not, h]
    simp [hb]
  · simp only [BitVec.getLsbD_of_ge _ _ (not_lt.mp hb)]

theorem Inv.ctlUpdate (h : Inv s) (up : s.devUp = true) {mask value : Word} (latencyKept : mask &&& 0x0000000e#32 = 0)
    (drainingKept : touchesDraining s mask = false)
    (rateOk : rateValid (rateCode ((s.hw.ctl &&& ~~~mask) ||| (value &&& mask))) = true) :
    Inv (setControl ((s.hw.ctl &&& ~~~mask) ||| (value &&& mask)) s) := by
  have lat : ctlGet ((s.hw.ctl &&& ~~~mask) ||| (value &&& mask)) .lat = ctlGet s.hw.ctl .lat :=
    ctlGet_lat_congr _ _ fun b h1 h4 => getLsbD_masked _ _ _ b (latencyBit_of_mask latencyKept b h1 h4)
  refine h.of_core (.of_written h.confOk up ?_ rateOk (fun p hp => ?_) h.granular (by simp [setControl_eq, writeTo]))
    ⟨rfl, rfl, rfl, rfl, by simp [setControl_eq, writeTo], by simp [setControl_eq, writeTo]⟩
  · have sizes := h.sizes
    rw [SizesFollowLatency, ← lat] at sizes
    exact sizes
  · obtain ⟨hport, hmasked⟩ := h.draining p hp
    simp only [touchesDraining, List.any_eq_false, List.mem_range, Bool.and_eq_true, not_and] at drainingKept
    have untouched : mask.getLsbD (22 + p) = false := by
      by_contra touched
      exact drainingKept p hport (by simpa using touched) hp
    exact ⟨hport, (ctlGet_ieMidi_congr (getLsbD_masked _ _ _ _ untouched)).mpr hmasked⟩

theorem ctlSet_lat_getLsbD (w : Word) (v b : Nat) (hb : 4 ≤ b) : (ctlSet w .lat v).getLsbD b = w.getLsbD b := by
  by_cases h : b < 32
  · rw [ctlSet_getLsbD _ _ _ _ h, if_neg (by simp [ctlFieldLo, ctlFieldWidth]; omega)]
  · rw [BitVec.getLsbD_of_ge _ _ (not_lt.mp h), BitVec.getLsbD_of_ge _ _ (not_lt.mp h)]

/-- A new latency code comes with its sizes (40_frame_counter R98). -/
theorem Inv.fcSetlat (h : Inv s) (up : s.devUp = true) {code : Nat} {p : Word} (legal : code ≤ 7)
    (size : periodSizeFromLatency code s.conf.family = some p) :
    Inv (emit .notifyConfig (setControl (ctlSet s.hw.ctl .lat code)
      { s with fc := { s.fc with periodSize := p, hwBufferSize := wrapPeriod s.conf p } })) := by
  refine h.of_core (.of_written h.confOk up ⟨?_, rfl⟩ ?_ (fun q hq => ?_) h.granular (by simp [setControl_eq, writeTo]))
    ⟨rfl, rfl, rfl, rfl, by simp [setControl_eq, writeTo], by simp [setControl_eq, writeTo]⟩
  · change periodSizeFromLatency (ctlGet (ctlSet s.hw.ctl .lat code) .lat) _ = _
    rw [ctlGet_lat_ctlSet _ _ (by omega)]
    exact size
  · change rateValid (rateCode (ctlSet s.hw.ctl .lat code)) = true
    rw [rateCode_congr _ _ fun b h6 _ => ctlSet_lat_getLsbD _ _ b (by omega)]
    exact h.rate
  · obtain ⟨hport, hmasked⟩ := h.draining q hq
    exact ⟨hport, (ctlGet_ieMidi_congr (ctlSet_lat_getLsbD _ _ _ (by omega))).mpr hmasked⟩

/-- The MIDI step masks every port it marks (41_interrupt_scheduler R116). -/
theorem Inv.midiStep (h : Inv s) (up : s.devUp = true) : Inv (midiStep s) := by
  obtain ⟨ctl, pend, e, hctl, hpend⟩ := midiStep_eq s
  have core := ((inv_iff s).mp h).1
  have low (b : Nat) (hb : b < 22) : ctl.getLsbD b = s.hw.ctl.getLsbD b := by
    have unmarked : ¬∃ p, statusMidi s.conf s.hw.status p = true ∧ b = 22 + p := by
      rintro ⟨p, -, rfl⟩
      omega
    rw [Bool.eq_iff_iff, hctl b (by omega)]
    exact and_iff_left unmarked
  obtain ⟨sizes, rate⟩ := core.codes_kept (t := setControl ctl s)
    ⟨fun b _ _ => low b (by omega), fun b _ _ => low b (by omega)⟩ rfl rfl
  rw [e]
  refine h.of_core (.of_written h.confOk up sizes rate (fun p hp => ?_) h.granular (by simp [writeTo]))
    ⟨rfl, rfl, rfl, rfl, by simp [writeTo], by simp [writeTo]⟩
  have hp4 := midiPendingAt_lt hp
  have cleared : ¬ctl.getLsbD (22 + p) = true ∧ p < s.conf.nMidi := by
    rw [hctl _ (by omega)]
    rcases (hpend p hp4).mp hp with before | marked
    · obtain ⟨hport, hmasked⟩ := h.draining p before
      exact ⟨fun hset => absurd (((ctlGet_ieMidi_eq_zero _ _).mp hmasked).symm.trans hset.1) nofun, hport⟩
    · exact ⟨fun hset => hset.2 ⟨p, marked, rfl⟩, ((statusMidi_eq_true _ _ _).mp marked).1⟩
  exact ⟨cleared.2, (ctlGet_ieMidi_eq_zero _ _).mpr (by simpa using cleared.1)⟩

/-! ### The frame counter -/

/-- A count of wraps and whole periods is a multiple of 32 (42_ltc_arith R135). -/
theorem fcAdvance_granular (h : CoreInv s) (p : Word) : (fcAdvance s.fc p).frameCount.toNat % 32 = 0 := by
  obtain ⟨j, k, hj, -, hk, -, hperiod, hbuffer⟩ := sizes_two_pow s h.confOk h.sizes
  have period : 32 ∣ 2 ^ j := pow_dvd_pow 2 hj
  have buffer : 32 ∣ 2 ^ k := pow_dvd_pow 2 (show 5 ≤ k by omega)
  rw [fcAdvance_frameCount _ _ j hperiod, hbuffer]
  refine Nat.mod_eq_zero_of_dvd ((Nat.dvd_mod_iff (by norm_num)).mpr ?_)
  exact Nat.dvd_add (buffer.mul_left _) (period.mul_right _)

theorem Inv.fcUpdate (h : Inv s) : Inv (fcUpdate s) := by
  have core := ((inv_iff s).mp h).1
  exact h.of_core
    { core with sizes := core.sizes, draining := core.draining, granular := fcAdvance_granular core _ }
    ⟨rfl, rfl, rfl, rfl, rfl, rfl⟩

theorem Inv.fcReset (h : Inv s) :
    Inv { s with fc := { s.fc with wrapCount := 0, lastHwPointer := 0, frameCount := 0 } } := by
  have core := ((inv_iff s).mp h).1
  exact h.of_core { core with sizes := core.sizes, draining := core.draining, granular := rfl }
    ⟨rfl, rfl, rfl, rfl, rfl, rfl⟩

/-! ### `IRQ` -/

theorem Inv.acknowledge (h : Inv s) : Inv (acknowledge s) :=
  h.congr ⟨rfl, rfl, rfl, rfl, rfl, by simp [writeTo]⟩ ⟨rfl, rfl, rfl, rfl, by simp [writeTo], by simp [writeTo]⟩

theorem Inv.notifyConsumers (h : Inv s) : Inv (notifyConsumers s) := by
  have capture : Inv (if s.sch.capPresent then emit (.notifyPcm .capture) s else s) := by
    split
    · exact h.emitted _ fun _ => rfl
    · exact h
  have playback {t : State} (ht : Inv t) : Inv (if t.sch.pbPresent then emit (.notifyPcm .playback) t else t) := by
    split
    · exact ht.emitted _ fun _ => rfl
    · exact ht
  exact playback capture

theorem Inv.pollStep (h : Inv s) : Inv (pollStep s) := by
  have sampled : Inv (afterNow s) := h.congr ⟨rfl, rfl, rfl, rfl, rfl, rfl⟩ ⟨rfl, rfl, rfl, rfl, rfl, rfl⟩
  have stamped : Inv { afterNow s with sch := { (afterNow s).sch with lastPollNs := nowAnswer s } } :=
    sampled.congr ⟨rfl, rfl, rfl, rfl, rfl, rfl⟩ ⟨rfl, rfl, rfl, rfl, rfl, rfl⟩
  unfold Machine.pollStep
  dsimp only
  split
  · exact stamped.emitted _ fun _ => rfl
  · exact sampled

theorem Inv.audioStep (h : Inv s) : Inv (audioStep s) :=
  h.acknowledge.fcUpdate.tcoElapsed.notifyConsumers.pollStep

theorem audioStep_devUp (s : State) : (audioStep s).devUp = s.devUp := by
  rw [audioStep_eq]
  exact (tcoElapsed_hook _).devUp

theorem Inv.serviceIrq (h : Inv s) (up : s.devUp = true) : Inv (serviceIrq s) := by
  obtain ⟨t, haudio, hmidi⟩ := serviceIrq_cases s
  have audio : Inv t ∧ t.devUp = true := by
    rcases haudio with ⟨-, rfl⟩ | ⟨-, rfl⟩
    · exact ⟨h.audioStep, (audioStep_devUp s).trans up⟩
    · exact ⟨h, up⟩
  rcases hmidi with e | e <;> rw [e]
  · exact audio.1.midiStep audio.2
  · exact audio.1

/-! ### `DEV.INIT` and `DEV.SHUTDOWN` -/

theorem Inv.initBare (h : Inv s) : Inv (setControl 0 (initDevice false s)) :=
  (inv_iff _).mpr
    ⟨.of_reset h.confOk rfl rfl rfl (by simp [setControl_eq, writeTo]) (by simp [setControl_eq, writeTo]),
      .of_absent h.confOk rfl configLegal_reset fun _ => rfl⟩

theorem Inv.initTco (h : Inv s) : Inv (pushTcoCtl2 (pushTcoCtl (setControl 0 (initDevice true s)))) :=
  (inv_iff _).mpr
    ⟨.of_reset h.confOk rfl rfl rfl (by simp [setControl_eq, writeTo]) (by simp [setControl_eq, writeTo]),
      .of_present rfl rfl configLegal_reset nofun (ringSound_reset h.confOk true) (codesClean_reset (c := s.conf))
        ⟨fun _ => ⟨rfl, rfl⟩, nofun, nofun⟩ (by simp [setControl_eq, writeTo]) (by simp [setControl_eq, writeTo])⟩

theorem TcoInv.shutDown (h : TcoInv s) (confOk : s.conf.ok = true) : TcoInv (shutDown s) := by
  have tco {u : State} (e : shutdownTco s = u) (ok : u.conf.ok = true) (rt : u.rt = TcoRuntime.reset u.conf)
      (legal : ConfigLegal u.cfg) : TcoInv (Machine.shutDown s) := by
    subst e
    exact .of_absent ok rt legal nofun
  rcases shutdownTco_cases s with ⟨absent, e⟩ | ⟨-, w, e⟩
  · exact tco e confOk (h.absent absent) h.legal
  · exact tco e confOk rfl h.legal

theorem CoreInv.shutDown (h : CoreInv s) : CoreInv (shutDown s) := by
  obtain ⟨conf, hw, fc⟩ : (shutdownTco s).conf = s.conf ∧ (shutdownTco s).hw = s.hw ∧ (shutdownTco s).fc = s.fc := by
    rcases shutdownTco_cases s with ⟨-, e⟩ | ⟨-, w, e⟩ <;> rw [e] <;> exact ⟨rfl, rfl, rfl⟩
  have ctl : (Machine.shutDown s).hw.ctl = stoppedCtl s.conf.nMidi s.hw.ctl := by
    rw [← conf, ← hw]; rfl
  obtain ⟨sizes, rate⟩ := h.codes_kept (t := Machine.shutDown s) (ctl ▸ stoppedCtl_sameCodes _ _) conf fc
  have quiet : ∀ p, midiPendingAt (Machine.shutDown s).sch.midiPending p = false := midiPendingAt_replicate_false
  have last : lastWrite .control (Machine.shutDown s).events = some (Machine.shutDown s).hw.ctl := by
    simp [Machine.shutDown, setControl_eq, writeTo]
  exact
    { confOk := (congrArg Config.ok conf).trans h.confOk
      sizes := sizes
      rate := rate
      draining := drainingMasked_of_quiet quiet
      quietDown := fun _ => quiet
      granular := (congrArg (fun f : FrameCounter => f.frameCount.toNat % 32) fc).trans h.granular
      cached := fun _ hv => (Option.some.inj (last.symm.trans hv)).symm
      written := fun _ => last }

theorem Inv.shutDown (h : Inv s) : Inv (shutDown s) :=
  have halves := (inv_iff s).mp h
  (inv_iff _).mpr ⟨halves.1.shutDown, halves.2.shutDown h.confOk⟩

end

/-! ### Every operation, every step -/

/-- A validated slot stays in its legal set when it is cut to the width of its field (10_state R23). -/
theorem setWidth_le {n m : Nat} {v : U64} (h : v.toNat ≤ m) : (v.setWidth n).toNat ≤ m := by
  rw [BitVec.toNat_setWidth]
  exact (Nat.mod_le _ _).trans h

theorem Effect.inv {s u : State} {i : Instr} (he : Effect s i u) (h : Inv s) : Inv u := by
  obtain ⟨hsync, hsrate, hpull, hwck⟩ := h.legal
  cases he with
  | initBare => exact h.initBare
  | initTco => exact h.initTco
  | shutdown => exact h.shutDown
  | irq up =>
    have snapshot : Inv (takeSnapshot s) := h.congr ⟨rfl, rfl, rfl, rfl, rfl, rfl⟩ ⟨rfl, rfl, rfl, rfl, rfl, rfl⟩
    exact snapshot.serviceIrq up
  | midiDone p up => exact h.midiDone up p.toNat
  | pollSet rate =>
    have stored : Inv { s with sch := { s.sch with pollRate := rate } } :=
      h.congr ⟨rfl, rfl, rfl, rfl, rfl, rfl⟩ ⟨rfl, rfl, rfl, rfl, rfl, rfl⟩
    exact stored.emitted _ fun _ => rfl
  | attachCapture present => exact h.congr ⟨rfl, rfl, rfl, rfl, rfl, rfl⟩ ⟨rfl, rfl, rfl, rfl, rfl, rfl⟩
  | attachPlayback present => exact h.congr ⟨rfl, rfl, rfl, rfl, rfl, rfl⟩ ⟨rfl, rfl, rfl, rfl, rfl, rfl⟩
  | ctlUpdate mask value up latencyKept drainingKept rateOk => exact h.ctlUpdate up latencyKept drainingKept rateOk
  | fcSetlat code p up legal size => exact h.fcSetlat up legal size
  | fcReset => exact h.fcReset
  | mtcMark ts len bytes ready => exact h.ltcChanged ready true
  | mtcPush ts len bytes ready => exact (h.ltcChanged ready true).driftPush ready ts
  | startLiteral code target ready =>
    exact h.setPending ready _ _ _ (and_ltcClean_clean code) ⟨nofun, nofun, nofun⟩
  | startNow code ready => exact h.setPending ready _ _ _ (and_ltcClean_clean code) ⟨nofun, fun _ => rfl, nofun⟩
  | startWall seconds ready => exact h.setPending ready _ _ _ BitVec.zero_and ⟨nofun, nofun, fun _ => rfl⟩
  | stopIdle ready => exact h.clearPending ready
  | stop ready => exact (h.clearPending ready).stopOutput ready
  | runOffIdle v ready => exact h.clearPending ready
  | runOff v ready => exact ((h.clearPending ready).stopOutput ready).emitted _ fun _ => rfl
  | runOn v ready => exact h.applyCfg ready _ _ h.legal (fun _ => rfl) rfl
  | cfgSync v ready legal => exact h.applyCfg ready _ _ ⟨setWidth_le legal, hsrate, hpull, hwck⟩ id rfl
  | cfgFps v ready => exact h.applyCfg ready _ _ h.legal id rfl
  | cfgSrate v ready legal => exact h.applyCfg ready _ _ ⟨hsync, setWidth_le legal, hpull, hwck⟩ id rfl
  | cfgPull v ready legal => exact h.applyCfg ready _ _ ⟨hsync, hsrate, setWidth_le legal, hwck⟩ id rfl
  | cfgWck v ready legal => exact h.setWordClock ready _ (setWidth_le legal) 0x54
  | cfgTerm v ready => exact h.applyCfg ready _ _ h.legal id rfl
  | cfgFlywheel v ready => exact h.applyCfg ready _ _ h.legal id rfl

theorem exec_inv {s t : State} {i : Instr} (h : Inv s) (he : exec i s = .next t) : Inv t := by
  cases he ▸ exec_ends i s with
  | kept st v => exact h.answered st false v
  | done u c v effect => exact (effect.inv h).answered .ok c v

/-- Settles O60: an idle step changes nothing, an illegal word is only answered, an operation keeps or changes the state
by one of its effects, and each of them keeps the invariant. -/
theorem everyStepKeepsInv : Obligations.EveryStepKeepsInv := by
  intro s t h hstep
  have taken (rest : List CommandWord) : Inv { s with port := rest } :=
    h.congr ⟨rfl, rfl, rfl, rfl, rfl, rfl⟩ ⟨rfl, rfl, rfl, rfl, rfl, rfl⟩
  obtain ⟨-, rfl | ⟨cw, rest, -, rfl | ⟨i, -, hexec⟩⟩⟩ := step_cases hstep
  · exact h
  · exact (taken rest).answered .inval false .none
  · exact exec_inv (taken rest) hexec

end Sys2Proof.Machine

/-! Registers on the bus (spec/20_memory.md R40 to R57): the four bytes of a register write, the step that runs a
decoded command, which operation writes which register and with what word, and which operation takes answers of the
environment. What an operation writes and reads is derived from the list of effects. -/

namespace Sys2Proof.Machine

/-! ### The bytes of a register write (R40, R42, R57) -/

theorem wireByte_toNat (v : Word) (i : Nat) : (wireByte v i).toNat = v.toNat / 2 ^ (8 * i) % 256 := by
  simp [wireByte, Nat.shiftRight_eq_div_pow]

/-- A word is the little-endian value of its four bytes on the wire (R42). -/
theorem toNat_eq_wireBytes (v : Word) :
    v.toNat = (wireByte v 0).toNat + 256 * (wireByte v 1).toNat + 65536 * (wireByte v 2).toNat +
      16777216 * (wireByte v 3).toNat := by
  have fits := v.isLt
  simp only [wireByte_toNat]
  omega

theorem busCells_regwrite (c : Config) (r : WriteReg) (v : Word) :
    busCells c (.regwrite r v) =
      [(c.addr.ofWrite r, wireByte v 0), (c.addr.ofWrite r + 1, wireByte v 1), (c.addr.ofWrite r + 2, wireByte v 2),
        (c.addr.ofWrite r + 3, wireByte v 3)] := rfl

/-- Only a register write touches the bus (R40). -/
theorem busCells_eq_nil (c : Config) (e : Event) (h : ∀ r v, e ≠ .regwrite r v) : busCells c e = [] := by
  cases e with
  | regwrite r v => exact absurd rfl (h r v)
  | _ => rfl

/-- The bytes of a register write stand in the four places from its address on. -/
theorem mem_busCells_range {c : Config} {r : WriteReg} {v : Word} {x : Host.Cell}
    (h : x ∈ busCells c (.regwrite r v)) :
    c.addr.ofWrite r ≤ x.1 ∧ x.1 < c.addr.ofWrite r + 4 := by
  rw [busCells_regwrite] at h
  simp only [List.mem_cons, List.not_mem_nil, or_false] at h
  rcases h with rfl | rfl | rfl | rfl <;> simp

/-- The registers the block writes, in the order of the table of R41. -/
def writeRegs : List WriteReg := [.control, .irqAck, .tcoLtcOut, .tcoCtl, .tcoCtl2]

theorem mem_writeRegs (r : WriteReg) : r ∈ writeRegs := by cases r <;> decide

theorem ofWrite_writeRegs_sublist (a : RegAddrs) : (writeRegs.map a.ofWrite).Sublist a.all :=
  .cons_cons _ (.cons _ (.cons_cons _ (.cons _ (.cons _ (.refl _)))))

/-- Each address the block writes to is one of the eight. -/
theorem ofWrite_mem_all (a : RegAddrs) (r : WriteReg) : a.ofWrite r ∈ a.all :=
  (ofWrite_writeRegs_sublist a).subset (List.mem_map_of_mem (mem_writeRegs r))

/-- Distinct addresses tell the registers apart (R57). -/
theorem ofWrite_injective {a : RegAddrs} (h : a.all.Nodup) : Function.Injective a.ofWrite := fun r r' =>
  List.inj_on_of_nodup_map (h.sublist (ofWrite_writeRegs_sublist a)) (mem_writeRegs r) (mem_writeRegs r')

/-- Settles O13: the bytes of the word, and aligned distinct addresses lie four or more apart. -/
theorem registerWritesAreLittleEndian : Obligations.RegisterWritesAreLittleEndian := by
  refine ⟨fun c r v => ⟨_, _, _, _, busCells_regwrite c r v, toNat_eq_wireBytes v⟩, busCells_eq_nil,
    fun c r r' v v' x y hok hne hx hy => ?_⟩
  obtain ⟨aligned, distinct⟩ := (Config.addrOk_iff c).1 hok
  have apart : c.addr.ofWrite r ≠ c.addr.ofWrite r' := fun h => hne (ofWrite_injective distinct h)
  have multiple := aligned _ (ofWrite_mem_all c.addr r)
  have multiple' := aligned _ (ofWrite_mem_all c.addr r')
  have range := mem_busCells_range hx
  have range' := mem_busCells_range hy
  omega

/-! ### A step with a legal command (R47, R80) -/

/-- Settles O5: a well-formed instance with a word that decodes takes the last branch of `step`. -/
theorem stepRunsDecoded : Obligations.StepRunsDecoded := by
  intro s cw rest i hok hport hdec
  simp [step, hok, hport, hdec]

/-! ### The register writes of an operation (R41, R45, R65) -/

/-- A write of `v` to `r` that the operation `i` may emit: the table of R41 allows it, the acknowledge carries 0 (R65),
and a word for the module passes the write mask (R45). -/
structure AllowedWrite (i : Instr) (r : WriteReg) (v : Word) : Prop where
  table : mayWrite i r = true
  ack : r = .irqAck → v = 0
  masked : isTcoReg r = true → v &&& tcoMask = v

theorem allowedWrite_control {i : Instr} (v : Word) (table : mayWrite i .control = true) : AllowedWrite i .control v :=
  ⟨table, nofun, nofun⟩

theorem allowedWrite_irqAck : AllowedWrite .irq .irqAck 0 := ⟨rfl, fun _ => rfl, nofun⟩

/-- `TcoWrite` masks its word, so only the table remains to be asked (R45). -/
theorem allowedWrite_tcoMask {i : Instr} {r : WriteReg} (v : Word) (tcoReg : isTcoReg r = true)
    (table : mayWrite i r = true) : AllowedWrite i r (v &&& tcoMask) :=
  ⟨table, fun h => (by rw [h] at tcoReg; cases tcoReg), fun _ => by rw [BitVec.and_assoc, BitVec.and_self]⟩

/-- A masked word has no sync bit (R45, R275). -/
theorem and_syncBits_of_masked {v : Word} (h : v &&& tcoMask = v) : v &&& 0x80808080#32 = 0 := by
  have disjoint : tcoMask &&& 0x80808080#32 = 0 := by decide
  rw [← h, BitVec.and_assoc, disjoint, BitVec.ofNat_eq_ofNat, BitVec.and_zero]

/-- From `s` to `t` events are only added at the end, and the register writes among them are allowed to `i`. -/
def AddsAllowed (i : Instr) (s t : State) : Prop :=
  ∃ es, t.events = s.events ++ es ∧ ∀ r v, .regwrite r v ∈ es → AllowedWrite i r v

section
variable {i : Instr} {s t u : State}

/-- A step that leaves the events alone writes nothing. -/
theorem AddsAllowed.of_events_eq (h : t.events = s.events) : AddsAllowed i s t := ⟨[], by simp [h], by simp⟩

theorem AddsAllowed.trans (h : AddsAllowed i s t) (k : AddsAllowed i t u) : AddsAllowed i s u := by
  obtain ⟨es, hes, allowed⟩ := h
  obtain ⟨fs, hfs, allowed'⟩ := k
  exact ⟨es ++ fs, by rw [hfs, hes, List.append_assoc], fun r v hm =>
    (List.mem_append.mp hm).elim (allowed r v) (allowed' r v)⟩

/-- What is changed beside the events before the step plays no part. -/
theorem AddsAllowed.after (h : AddsAllowed i t u) (e : t.events = s.events) : AddsAllowed i s u :=
  (AddsAllowed.of_events_eq e).trans h

/-- An event that is no register write may join. -/
theorem emit_addsAllowed (e : Event) (he : ∀ r v, e ≠ .regwrite r v) (s : State) : AddsAllowed i s (emit e s) :=
  ⟨[e], rfl, fun r v hm => absurd (List.mem_singleton.mp hm).symm (he r v)⟩

theorem regWrite_addsAllowed {r : WriteReg} {v : Word} (allowed : AllowedWrite i r v) (s : State) :
    AddsAllowed i s (regWrite r v s) := by
  refine ⟨[.regwrite r v], rfl, fun r' v' hm => ?_⟩
  obtain ⟨rfl, rfl⟩ := Event.regwrite.inj (List.mem_singleton.mp hm)
  exact allowed

theorem pushTcoCtl_addsAllowed (table : mayWrite i .tcoCtl = true) (s : State) : AddsAllowed i s (pushTcoCtl s) :=
  regWrite_addsAllowed (allowedWrite_tcoMask _ rfl table) s

theorem pushTcoCtl2_addsAllowed (table : mayWrite i .tcoCtl2 = true) (s : State) : AddsAllowed i s (pushTcoCtl2 s) :=
  regWrite_addsAllowed (allowedWrite_tcoMask _ rfl table) s

theorem setControl_addsAllowed (table : mayWrite i .control = true) (ctl : Word) (s : State) :
    AddsAllowed i s (setControl ctl s) :=
  (regWrite_addsAllowed (allowedWrite_control ctl table) _).after rfl

theorem applyCfg_addsAllowed (table : mayWrite i .tcoCtl = true) (cfg : TcoConfig) (id : BitVec 8) (s : State) :
    AddsAllowed i s (applyCfg cfg id s) :=
  ((pushTcoCtl_addsAllowed table _).trans (emit_addsAllowed (.notifyCtl id) nofun _)).after rfl

theorem stopOutput_addsAllowed (table : mayWrite i .tcoCtl = true) (s : State) : AddsAllowed i s (stopOutput s) :=
  (pushTcoCtl_addsAllowed table _).after rfl

theorem shutDown_addsAllowed (s : State) : AddsAllowed .devShutdown s (shutDown s) := by
  have tco : AddsAllowed .devShutdown s (shutdownTco s) := by
    unfold shutdownTco
    split
    · exact (pushTcoCtl_addsAllowed rfl _).after rfl
    · exact .of_events_eq rfl
  exact tco.trans (setControl_addsAllowed rfl _ _)

theorem pullUpdate_addsAllowed (s : State) : AddsAllowed i s (pullUpdate s) := by
  rcases pullUpdate_cases s with h | ⟨v, h⟩ <;> rw [h]
  · exact .of_events_eq rfl
  · exact (emit_addsAllowed (.notifyPull v) nofun _).after rfl

theorem driftPush_addsAllowed (ts : U64) (s : State) : AddsAllowed i s (driftPush ts s) := by
  rcases driftPush_cases ts s with h | ⟨d, h⟩ <;> rw [h]
  · exact .of_events_eq rfl
  · exact (pullUpdate_addsAllowed _).after rfl

/-! ### The register writes of `IRQ` (R41, R114 to R116) -/

/-- The hook writes `TCO_LTC_OUT` and `TCO_CTL`, on behalf of `IRQ`, with masked words. -/
theorem HookStep.addsAllowed (h : HookStep s t) : AddsAllowed .irq s t := by
  obtain ⟨es, hes, hook⟩ := h.events
  refine ⟨es, hes, fun r v hm => ?_⟩
  obtain ⟨kind, masked⟩ := hook _ hm
  cases r with
  | tcoLtcOut | tcoCtl => exact ⟨rfl, nofun, fun _ => masked _ v rfl⟩
  | control | irqAck | tcoCtl2 => cases kind

theorem acknowledge_addsAllowed (s : State) : AddsAllowed .irq s (acknowledge s) :=
  regWrite_addsAllowed allowedWrite_irqAck s

/-- Behind the hook's events an audio interrupt only notifies and defers. -/
theorem audioStep_addsAllowed (s : State) : AddsAllowed .irq s (audioStep s) := by
  have hooked : AddsAllowed .irq s (tcoElapsed (fcUpdate (acknowledge s))) :=
    (acknowledge_addsAllowed s).trans ((tcoElapsed_hook _).addsAllowed.after rfl)
  rw [audioStep_eq]
  exact hooked.trans ⟨_, by rw [List.append_assoc, List.append_assoc], by simp⟩

theorem midiStep_addsAllowed (s : State) : AddsAllowed .irq s (midiStep s) := by
  obtain ⟨ctl, pend, h, -, -⟩ := midiStep_eq s
  rw [h]
  exact (setControl_addsAllowed rfl ctl s).trans ⟨[.deferMidiDrain], by simp [setControl_eq], by simp⟩

theorem serviceIrq_addsAllowed (s : State) : AddsAllowed .irq s (serviceIrq s) := by
  obtain ⟨t, haudio, hmidi⟩ := serviceIrq_cases s
  have audio : AddsAllowed .irq s t := by
    rcases haudio with ⟨-, rfl⟩ | ⟨-, rfl⟩
    · exact audioStep_addsAllowed s
    · exact .of_events_eq rfl
  rcases hmidi with h | h <;> rw [h]
  · exact audio.trans (midiStep_addsAllowed t)
  · exact audio

/-! ### The register writes of every operation -/

/-- Each effect writes the registers that the table of R41 gives its operation. -/
theorem Effect.addsAllowed (h : Effect s i u) : AddsAllowed i s u := by
  cases h with
  | initBare => exact (setControl_addsAllowed rfl _ _).after rfl
  | initTco =>
    refine AddsAllowed.after (t := initDevice true s) ?_ rfl
    exact (setControl_addsAllowed rfl 0 _).trans
      ((pushTcoCtl_addsAllowed rfl _).trans (pushTcoCtl2_addsAllowed rfl _))
  | shutdown => exact shutDown_addsAllowed s
  | irq => exact (serviceIrq_addsAllowed _).after rfl
  | midiDone => exact (setControl_addsAllowed rfl _ _).after rfl
  | ctlUpdate => exact setControl_addsAllowed rfl _ s
  | fcSetlat => exact ((setControl_addsAllowed rfl _ _).trans (emit_addsAllowed .notifyConfig nofun _)).after rfl
  | mtcPush ts => exact (driftPush_addsAllowed ts _).after rfl
  | stop => exact (stopOutput_addsAllowed rfl _).after rfl
  | runOff => exact ((stopOutput_addsAllowed rfl _).trans (emit_addsAllowed (.notifyCtl 0x56) nofun _)).after rfl
  | runOn | cfgSync | cfgFps | cfgSrate | cfgPull | cfgTerm | cfgFlywheel => exact applyCfg_addsAllowed rfl _ _ s
  | cfgWck => exact ((pushTcoCtl2_addsAllowed rfl _).trans (emit_addsAllowed (.notifyCtl 0x54) nofun _)).after rfl
  | pollSet => exact (emit_addsAllowed (.notifyCtl 0x12) nofun _).after rfl
  | attachCapture | attachPlayback | fcReset | mtcMark | startLiteral | startNow | startWall | stopIdle | runOffIdle =>
    exact .of_events_eq rfl

/-- Whatever list of events an operation is seen to add, its register writes are allowed. -/
theorem exec_allowedWrite {es : List Event} {r : WriteReg} {v : Word} (h : exec i s = .next t)
    (added : t.events = s.events ++ es) (hm : .regwrite r v ∈ es) : AllowedWrite i r v := by
  have adds : AddsAllowed i s t := by
    cases h ▸ exec_ends i s with
    | kept => exact .of_events_eq rfl
    | done u c v effect => exact effect.addsAllowed.trans (.of_events_eq rfl)
  obtain ⟨fs, hfs, allowed⟩ := adds
  obtain rfl : es = fs := List.append_cancel_left (added.symm.trans hfs)
  exact allowed r v hm

end

/-- Settles O16: the table and the acknowledge are two parts of what each effect keeps to. -/
theorem registerWritersFollowTheTable : Obligations.RegisterWritersFollowTheTable := by
  intro i s t es r v h added hm
  have allowed := exec_allowedWrite h added hm
  exact ⟨allowed.table, allowed.ack⟩

/-- Settles O17: a word for the module passes the write mask, which has no sync bit. -/
theorem tcoWritesCarryNoSyncBits : Obligations.TcoWritesCarryNoSyncBits := by
  intro i s t es r v h added hm tcoReg
  exact and_syncBits_of_masked ((exec_allowedWrite h added hm).masked tcoReg)

/-! ### The answers of the environment an operation takes (R44, R111, R150, R154) -/

/-- From `s` to `t` no answer of an inbound register is taken. -/
def KeepsInbound (s t : State) : Prop := t.env.ltcIn = s.env.ltcIn ∧ t.env.tcoStat = s.env.tcoStat

/-- From `s` to `t` one answer of each inbound register is taken. -/
def TakesInbound (s t : State) : Prop := t.env.ltcIn = s.env.ltcIn.tail ∧ t.env.tcoStat = s.env.tcoStat.tail

section
variable {i : Instr} {s t u : State}

theorem KeepsInbound.trans (h : KeepsInbound s t) (k : KeepsInbound t u) : KeepsInbound s u :=
  ⟨k.1.trans h.1, k.2.trans h.2⟩

theorem TakesInbound.keep (h : TakesInbound s t) (k : KeepsInbound t u) : TakesInbound s u :=
  ⟨k.1.trans h.1, k.2.trans h.2⟩

theorem latchClear_env (s : State) : (latchClear s).env = s.env := by
  rcases latchClear_cases s with ⟨-, h⟩ | ⟨-, h⟩ <;> rw [h]

theorem latchClear_ltcChanged (s : State) : (latchClear s).rt.ltcChanged = s.rt.ltcChanged := by
  rcases latchClear_cases s with ⟨-, h⟩ | ⟨-, h⟩ <;> rw [h]

/-- The decoder reads both inbound registers, or fails its assertion and reads neither (R150, log 9). -/
theorem inboundDecode_inbound (s : State) : KeepsInbound s (inboundDecode s) ∨ TakesInbound s (inboundDecode s) := by
  rcases inboundDecode_cases s with ⟨-, h⟩ | ⟨r, -, h⟩ <;> rw [h]
  · exact .inl ⟨rfl, rfl⟩
  · exact .inr ⟨rfl, rfl⟩

theorem outboundStep_keepsInbound (s : State) : KeepsInbound s (outboundStep s) := by
  have resolved : KeepsInbound s (afterResolve s) := by
    unfold afterResolve
    split <;> exact ⟨rfl, rfl⟩
  unfold outboundStep
  split
  · exact ⟨rfl, rfl⟩
  · rcases schedule_cases s with h | ⟨r, cal, -, -, h⟩ <;> rw [h]
    · exact ⟨rfl, rfl⟩
    · rw [scheduleWith_eq]
      exact resolved

/-- The hook takes inbound answers only with a module and the changed flag set, then one each (R148, R154). -/
theorem tcoElapsed_inbound (s : State) :
    KeepsInbound s (tcoElapsed s) ∨
      (s.rt.tcoPresent = true ∧ s.rt.ltcChanged = true ∧ TakesInbound s (tcoElapsed s)) := by
  cases present : s.rt.tcoPresent
  · rw [tcoElapsed_absent s present]
    exact .inl ⟨rfl, rfl⟩
  · have cleared : KeepsInbound s (latchClear s) := by rw [KeepsInbound, latchClear_env]; exact ⟨rfl, rfl⟩
    have scheduled := outboundStep_keepsInbound (inboundStep (latchClear s))
    have run : tcoElapsed s = outboundStep (inboundStep (latchClear s)) := by simp [tcoElapsed, present]
    rw [run]
    cases changed : s.rt.ltcChanged
    · have skipped : inboundStep (latchClear s) = latchClear s := by
        simp [inboundStep, latchClear_ltcChanged, changed]
      rw [skipped] at scheduled ⊢
      exact .inl (cleared.trans scheduled)
    · have decoded : inboundStep (latchClear s) = inboundDecode (latchClear s) := by
        simp [inboundStep, latchClear_ltcChanged, changed]
      rw [decoded] at scheduled ⊢
      rcases inboundDecode_inbound (latchClear s) with kept | taken
      · exact .inl ((cleared.trans kept).trans scheduled)
      · rw [TakesInbound, latchClear_env] at taken
        exact .inr ⟨rfl, rfl, TakesInbound.keep taken scheduled⟩

theorem audioStep_status (s : State) : (audioStep s).env.status = s.env.status := by
  rw [audioStep_eq]
  exact (tcoElapsed_hook _).status

/-- Beside the hook an audio interrupt only samples the clock. -/
theorem audioStep_inbound (s : State) :
    KeepsInbound s (audioStep s) ∨
      (s.rt.tcoPresent = true ∧ s.rt.ltcChanged = true ∧ TakesInbound s (audioStep s)) := by
  rw [audioStep_eq]
  exact tcoElapsed_inbound (fcUpdate (acknowledge s))

theorem midiStep_env (s : State) : (midiStep s).env = s.env := by
  obtain ⟨ctl, pend, h, -, -⟩ := midiStep_eq s
  rw [h]

/-- Serving an interrupt takes the answers that its audio step takes, if audio is asserted, and no others. -/
theorem serviceIrq_env (s : State) :
    (statusAudio s.conf s.hw.status = true ∧ (serviceIrq s).env = (audioStep s).env) ∨ (serviceIrq s).env = s.env := by
  obtain ⟨t, haudio, hmidi⟩ := serviceIrq_cases s
  have served : (serviceIrq s).env = t.env := by
    rcases hmidi with h | h <;> rw [h]
    exact midiStep_env t
  rw [served]
  rcases haudio with ⟨asserted, rfl⟩ | ⟨-, rfl⟩
  · exact .inl ⟨asserted, rfl⟩
  · exact .inr rfl

theorem shutDown_env (s : State) : (shutDown s).env = s.env := by
  change (shutdownTco s).env = _
  rcases shutdownTco_cases s with ⟨-, h⟩ | ⟨-, w, h⟩ <;> rw [h]

theorem pullUpdate_env (s : State) : (pullUpdate s).env = s.env := by
  rcases pullUpdate_cases s with h | ⟨v, h⟩ <;> rw [h]
  rfl

theorem driftPush_env (ts : U64) (s : State) : (driftPush ts s).env = s.env := by
  rcases driftPush_cases ts s with h | ⟨d, h⟩ <;> rw [h]
  exact pullUpdate_env _

/-- No effect but that of `IRQ` takes an answer. -/
theorem Effect.env_eq (h : Effect s i u) (hirq : i ≠ .irq) : u.env = s.env := by
  cases h with
  | irq => exact absurd rfl hirq
  | shutdown => exact shutDown_env s
  | mtcPush ts => exact driftPush_env ts _
  | _ => rfl

theorem exec_env (h : exec i s = .next t) (hirq : i ≠ .irq) : t.env = s.env := by
  cases h ▸ exec_ends i s with
  | kept => rfl
  | done u c v effect => exact effect.env_eq hirq

/-- An `IRQ` of a device that is up takes one answer of `STATUS`, and what its service of the snapshot takes (R111). -/
theorem execIrq_env (up : s.devUp = true) (h : execIrq s = .next t) :
    t.env = (serviceIrq (takeSnapshot s)).env := by
  obtain ⟨v, hv⟩ := execIrq_up s up
  cases hv.symm.trans h
  rfl

end

/-- Settles O18: an effect takes no answer; `IRQ` takes those of its snapshot and of its audio step. -/
theorem onlyIrqTakesInputs : Obligations.OnlyIrqTakesInputs := by
  refine ⟨fun i s t hirq h => exec_env h hirq, fun s t up h => ?_, fun s st later queued => ?_⟩
  · rw [execIrq_env up h]
    rcases serviceIrq_env (takeSnapshot s) with ⟨asserted, served⟩ | quiet
    · rw [served]
      refine ⟨audioStep_status (takeSnapshot s), ?_⟩
      rcases audioStep_inbound (takeSnapshot s) with kept | ⟨present, changed, taken⟩
      · exact .inl kept
      · exact .inr ⟨asserted, present, changed, taken⟩
    · rw [quiet]
      exact ⟨rfl, .inl ⟨rfl, rfl⟩⟩
  · simp [readAnswer, nextOr, queued]

end Sys2Proof.Machine

/-! Decoding and encoding (spec/30_encoding.md R80 to R83). A command word carries an operation when its opcode and its
three slots are those of the operation. With a zero reserved byte, that is what decoding to the operation means, and
what being the encoding of the operation means. -/

namespace Sys2Proof

open Laws.OpcodeWord (setWidth_lt boolSlot_lt directionSlot_lt)

/-! ### Operands in their slots (R81) -/

/-- A run of bits by division, at every width (00_scope R8). -/
theorem toNat_extractLsb' {n : Nat} (x : BitVec n) (lo len : Nat) :
    (x.extractLsb' lo len).toNat = x.toNat / 2 ^ lo % 2 ^ len := by
  rw [BitVec.extractLsb'_toNat, Nat.shiftRight_eq_div_pow]

/-- Narrowing a slot that fits and widening it again. -/
theorem setWidth_setWidth_of_lt {n : Nat} {x : U64} (h : x.toNat < 2 ^ n) : (x.setWidth n).setWidth 64 = x := by
  apply BitVec.eq_of_toNat_eq
  rw [BitVec.toNat_setWidth, BitVec.toNat_setWidth, Nat.mod_eq_of_lt h, Nat.mod_eq_of_lt x.isLt]

theorem eq_zero_or_one_of_lt {x : U64} (h : x.toNat < 2 ^ 1) : x = 0 ∨ x = 1 := by bv_omega

theorem boolSlot_bne_zero {x : U64} (h : x.toNat < 2 ^ 1) : boolSlot (x != 0) = x := by
  rcases eq_zero_or_one_of_lt h with rfl | rfl <;> rfl

theorem directionSlot_directionOf {x : U64} (h : x.toNat < 2 ^ 1) : directionSlot (directionOf x) = x := by
  rcases eq_zero_or_one_of_lt h with rfl | rfl <;> rfl

/-- A slot of which the format uses no bit is zero. -/
theorem eq_zero_of_toNat_lt_one {n : Nat} {x : BitVec n} (h : x.toNat < 2 ^ 0) : x = 0 :=
  BitVec.eq_of_toNat_eq (by simpa using h)

theorem toNat_lt_one_of_eq_zero {n : Nat} {x : BitVec n} (h : x = 0) : x.toNat < 2 ^ 0 := by simp [h]

/-- Widening an operand and narrowing it again. -/
theorem setWidth_setWidth_operand {n : Nat} (hn : n ≤ 64) (x : BitVec n) : ((x.setWidth 64 : U64).setWidth n) = x := by
  rw [BitVec.setWidth_setWidth_of_le _ hn, BitVec.setWidth_eq]

theorem bne_zero_boolSlot (b : Bool) : (boolSlot b != 0) = b := by cases b <;> rfl

theorem directionOf_directionSlot (d : Direction) : directionOf (directionSlot d) = d := by cases d <;> rfl

/-! ### The operation a word carries -/

/-- Opcode and slots of the word are those of the operation; nothing is said of the reserved byte. -/
structure Carries (cw : CommandWord) (i : Instr) : Prop where
  op : opOf cw = opcodeOf i
  a : slotA cw = encodeA i
  b : slotB cw = encodeB i
  c : slotC cw = encodeC i

theorem carries_encode (i : Instr) : Carries (encode i) i :=
  ⟨opOf_commandWord .., slotA_commandWord .., slotB_commandWord .., slotC_commandWord ..⟩

theorem rsvOf_encode (i : Instr) : rsvOf (encode i) = 0 := rsvOf_commandWord ..

/-- With the reserved byte zero the opcode and the slots are the whole word. -/
theorem encode_eq_iff_carries (cw : CommandWord) (i : Instr) : encode i = cw ↔ rsvOf cw = 0 ∧ Carries cw i := by
  constructor
  · rintro rfl
    exact ⟨rsvOf_encode i, carries_encode i⟩
  · rintro ⟨hrsv, hop, ha, hb, hc⟩
    rw [encode, ← hop, ← ha, ← hb, ← hc, commandWord_fields cw hrsv]

/-- The decoder answers only what the word carries: each narrowed operand fits its slot, so widening it gives the slot
back, and an unused slot is zero. -/
theorem carries_of_decodeOp {cw : CommandWord} {i : Instr} (h : decodeOp cw = .ok i) : Carries cw i := by
  unfold decodeOp at h
  split at h
  case h_25 => cases h -- an opcode of no row
  all_goals
    obtain ⟨rfl, ha, hb, hc⟩ := (decodeSlots_eq_ok ..).mp h
    refine ⟨BitVec.eq_of_toNat_eq ‹_›, ?_, ?_, ?_⟩ <;>
      simp only [encodeA, encodeB, encodeC, setWidth_setWidth_of_lt, boolSlot_bne_zero, directionSlot_directionOf,
        ha, hb]
  all_goals with_reducible exact eq_zero_of_toNat_lt_one ‹_›

theorem decodeSlots_of_fits {cw : CommandWord} {aBits bBits cBits : Nat} {i j : Instr} (read : i = j)
    (ha : (slotA cw).toNat < 2 ^ aBits) (hb : (slotB cw).toNat < 2 ^ bBits) (hc : (slotC cw).toNat < 2 ^ cBits) :
    decodeSlots cw aBits bBits cBits i = .ok j :=
  (decodeSlots_eq_ok ..).mpr ⟨read, ha, hb, hc⟩

/-- The decoder finds the operation that the word carries: the opcode selects its row, each operand is read back from
its slot, and each slot fits the bits of the row. -/
theorem Carries.decodeOp_eq {cw : CommandWord} {i : Instr} (h : Carries cw i) : decodeOp cw = .ok i := by
  obtain ⟨hop, ha, hb, hc⟩ := h
  rw [decodeOp.eq_def, hop]
  cases i
  case devInit t =>
    exact decodeSlots_of_fits (by rw [ha]; exact congrArg _ (bne_zero_boolSlot t)) (ha ▸ boolSlot_lt t)
      (toNat_lt_one_of_eq_zero hb) (toNat_lt_one_of_eq_zero hc)
  case midiDone p =>
    exact decodeSlots_of_fits (by rw [ha]; exact congrArg _ (setWidth_setWidth_operand (by decide) p))
      (ha ▸ setWidth_lt p) (toNat_lt_one_of_eq_zero hb) (toNat_lt_one_of_eq_zero hc)
  case pollSet r | ltcStartNow r =>
    exact decodeSlots_of_fits (by rw [ha]; exact congrArg _ (setWidth_setWidth_operand (by decide) r))
      (ha ▸ setWidth_lt r) (toNat_lt_one_of_eq_zero hb) (toNat_lt_one_of_eq_zero hc)
  case pcmAttach d v =>
    exact decodeSlots_of_fits
      (by rw [ha, hb]; exact congrArg₂ _ (directionOf_directionSlot d) (bne_zero_boolSlot v))
      (ha ▸ directionSlot_lt d) (hb ▸ boolSlot_lt v) (toNat_lt_one_of_eq_zero hc)
  case ctlUpdate m v =>
    exact decodeSlots_of_fits
      (by rw [ha, hb]
          exact congrArg₂ _ (setWidth_setWidth_operand (by decide) m) (setWidth_setWidth_operand (by decide) v))
      (ha ▸ setWidth_lt m) (hb ▸ setWidth_lt v) (toNat_lt_one_of_eq_zero hc)
  case mtcMsg ts len bytes =>
    exact decodeSlots_of_fits
      (by rw [ha, hb, hc]; exact congrArg (Instr.mtcMsg ts · bytes) (setWidth_setWidth_operand (by decide) len))
      (slotA cw).isLt (hb ▸ setWidth_lt len) (slotC cw).isLt
  case ltcStart c t =>
    exact decodeSlots_of_fits
      (by rw [ha, hb]; exact congrArg (Instr.ltcStart · t) (setWidth_setWidth_operand (by decide) c))
      (ha ▸ setWidth_lt c) (slotB cw).isLt (toNat_lt_one_of_eq_zero hc)
  case devShutdown | irq | fcReset | fcRead | ltcStop | tcoStatus =>
    exact decodeSlots_of_fits rfl (toNat_lt_one_of_eq_zero ha) (toNat_lt_one_of_eq_zero hb) (toNat_lt_one_of_eq_zero hc)
  case fcSetlat v | ltcStartWall v | cfgSync v | cfgFps v | cfgSrate v | cfgPull v | cfgWck v | cfgTerm v | cfgRun v |
      cfgFlywheel v =>
    exact decodeSlots_of_fits (congrArg _ ha) (slotA cw).isLt (toNat_lt_one_of_eq_zero hb) (toNat_lt_one_of_eq_zero hc)

theorem decodeOp_eq_ok_iff (cw : CommandWord) (i : Instr) : decodeOp cw = .ok i ↔ Carries cw i :=
  ⟨carries_of_decodeOp, Carries.decodeOp_eq⟩

theorem decode_eq_ok_iff (cw : CommandWord) (i : Instr) :
    decode cw = .ok i ↔ rsvOf cw = 0 ∧ decodeOp cw = .ok i := by
  unfold decode
  cases decodeOp cw with
  | error e => simp
  | ok j => by_cases hrsv : rsvOf cw = 0 <;> simp only [hrsv, if_true, if_false, true_and, false_and, reduceCtorEq]

/-- Decoding and encoding are inverse to each other. -/
theorem decode_eq_ok_iff_encode_eq (cw : CommandWord) (i : Instr) : decode cw = .ok i ↔ encode i = cw := by
  rw [decode_eq_ok_iff, decodeOp_eq_ok_iff, encode_eq_iff_carries]

/-- Settles O1: the word is the encoding of the operation. -/
theorem decodeEncodeRoundTrip : Obligations.DecodeEncodeRoundTrip :=
  fun i => (decode_eq_ok_iff_encode_eq (encode i) i).2 rfl

/-- Settles O2: the other direction. -/
theorem encodeDecodeRoundTrip : Obligations.EncodeDecodeRoundTrip :=
  fun cw i => (decode_eq_ok_iff_encode_eq cw i).1

/-- Settles O7: five words are the encodings of their operations; the sixth has the opcode of `IRQ` and a reserved byte
that is not zero. -/
theorem sampleWordsDecode : Obligations.SampleWordsDecode := by
  simp only [Obligations.SampleWordsDecode, decode_eq_ok_iff_encode_eq]
  exact ⟨rfl, rfl, rfl, rfl, rfl, rfl⟩

/-! ### Legal words (R83) -/

/-- What a row of the opcode map asks of a word, by the word's fields. -/
theorem fitsRow_iff (cw : CommandWord) (row : OpcodeRow) :
    fitsRow cw row = true ↔ (opOf cw).toNat = row.op ∧ rsvOf cw = 0 ∧ (slotA cw).toNat < 2 ^ row.aBits ∧
      (slotB cw).toNat < 2 ^ row.bBits ∧ (slotC cw).toNat < 2 ^ row.cBits := by
  have top : cw.toNat / 2 ^ 144 < 2 ^ 80 := Nat.div_lt_of_lt_mul cw.isLt
  have rsv : rsvOf cw = 0 ↔ cw.toNat / 256 % 256 = 0 := by
    rw [← BitVec.toNat_inj, rsvOf, toNat_extractLsb']
    rfl
  simp only [fitsRow, rsv, opOf, slotA, slotB, slotC, toNat_extractLsb', Bool.and_eq_true, beq_iff_eq,
    decide_eq_true_eq, and_assoc, Nat.mod_eq_of_lt top, pow_zero, Nat.div_one, show (2 : Nat) ^ 8 = 256 from rfl]

/-- The opcode of a row selects an operation and the widths of that row. -/
theorem decodeOp_of_row {cw : CommandWord} {row : OpcodeRow} (mem : row ∈ opcodeMap)
    (hop : (opOf cw).toNat = row.op) :
    ∃ i, decodeOp cw = decodeSlots cw row.aBits row.bBits row.cBits i := by
  rw [decodeOp.eq_def, hop]
  rw [opcodeMap] at mem
  fin_cases mem <;> exact ⟨_, rfl⟩

/-- The word of every operation meets its row (Laws/PerInstr.lean, one lemma for each operation). -/
theorem opcodeWord_statement (i : Instr) : Laws.OpcodeWord.Statement i :=
  match i with
  | .devInit t => Laws.OpcodeWord.devInit t
  | .devShutdown => Laws.OpcodeWord.devShutdown
  | .irq => Laws.OpcodeWord.irq
  | .midiDone p => Laws.OpcodeWord.midiDone p
  | .pollSet r => Laws.OpcodeWord.pollSet r
  | .pcmAttach d v => Laws.OpcodeWord.pcmAttach d v
  | .ctlUpdate m v => Laws.OpcodeWord.ctlUpdate m v
  | .fcSetlat c => Laws.OpcodeWord.fcSetlat c
  | .fcReset => Laws.OpcodeWord.fcReset
  | .fcRead => Laws.OpcodeWord.fcRead
  | .mtcMsg ts len bytes => Laws.OpcodeWord.mtcMsg ts len bytes
  | .ltcStart c t => Laws.OpcodeWord.ltcStart c t
  | .ltcStartNow c => Laws.OpcodeWord.ltcStartNow c
  | .ltcStartWall o => Laws.OpcodeWord.ltcStartWall o
  | .ltcStop => Laws.OpcodeWord.ltcStop
  | .cfgSync v => Laws.OpcodeWord.cfgSync v
  | .cfgFps v => Laws.OpcodeWord.cfgFps v
  | .cfgSrate v => Laws.OpcodeWord.cfgSrate v
  | .cfgPull v => Laws.OpcodeWord.cfgPull v
  | .cfgWck v => Laws.OpcodeWord.cfgWck v
  | .cfgTerm v => Laws.OpcodeWord.cfgTerm v
  | .cfgRun v => Laws.OpcodeWord.cfgRun v
  | .cfgFlywheel v => Laws.OpcodeWord.cfgFlywheel v
  | .tcoStatus => Laws.OpcodeWord.tcoStatus

theorem legalWord_iff (cw : CommandWord) : legalWord cw = true ↔ ∃ row ∈ opcodeMap, fitsRow cw row = true := by
  rw [legalWord, List.any_eq_true]

theorem legalWord_encode (i : Instr) : legalWord (encode i) = true := by
  obtain ⟨row, mem, fits⟩ := opcodeWord_statement i
  exact (legalWord_iff _).2 ⟨row, mem, (fitsRow_iff _ row).2 fits⟩

theorem exists_decode_of_legalWord {cw : CommandWord} (h : legalWord cw = true) : ∃ i, decode cw = .ok i := by
  obtain ⟨row, mem, fits⟩ := (legalWord_iff cw).1 h
  obtain ⟨hop, hrsv, ha, hb, hc⟩ := (fitsRow_iff cw row).1 fits
  obtain ⟨i, selected⟩ := decodeOp_of_row mem hop
  exact ⟨i, (decode_eq_ok_iff cw i).2 ⟨hrsv, selected.trans (decodeSlots_of_fits rfl ha hb hc)⟩⟩

/-- Settles O3: a word that decodes is an encoding, which meets its row; a word that meets a row decodes by that row. -/
theorem decodesExactlyTheOpcodeMap : Obligations.DecodesExactlyTheOpcodeMap := by
  refine fun cw => ⟨fun ⟨i, h⟩ => ?_, exists_decode_of_legalWord⟩
  rw [← (decode_eq_ok_iff_encode_eq cw i).1 h]
  exact legalWord_encode i

end Sys2Proof

namespace Sys2Proof.Machine

/-- Settles O4: an illegal word does not decode, and `step` answers a word that does not decode with `E_INVAL`. -/
theorem illegalWordRaisesEInval : Obligations.IllegalWordRaisesEInval := by
  intro s cw rest hok hport illegal
  have refused : ∃ e, decode cw = .error e := by
    cases h : decode cw with
    | error e => exact ⟨e, rfl⟩
    | ok i =>
      have legal := (decodesExactlyTheOpcodeMap cw).1 ⟨i, h⟩
      rw [illegal] at legal
      cases legal
  obtain ⟨e, he⟩ := refused
  simp [step, hok, hport, he, State.answered]

end Sys2Proof.Machine

/-! Register words, time codes and messages in numbers (spec/30_encoding.md R63 to R74; spec/43_ltc_decoder.md R150):
the fields of a word by division, the bytes of a message, the rate table, and what the inbound decode step publishes. -/

namespace Sys2Proof.Machine

/-! ### The 14-bit offset (R72) -/

/-- The low seven bits of a word, the mask of one byte lane. -/
theorem and_lane_toNat (w : Word) : (w &&& 0x7f#32).toNat = w.toNat % 128 :=
  Nat.and_two_pow_sub_one_eq_mod w.toNat 7

/-- Two groups of bits that do not overlap, as a number. -/
theorem shiftLeft_or_toNat (hi lo : Word) (k : Nat) (hlo : lo.toNat < 2 ^ k) (hhi : hi.toNat * 2 ^ k < 2 ^ 32) :
    (hi <<< k ||| lo).toNat = hi.toNat * 2 ^ k + lo.toNat := by
  rw [BitVec.toNat_or, BitVec.toNat_shiftLeft, Nat.shiftLeft_eq, Nat.mod_eq_of_lt hhi, ← Nat.shiftLeft_eq,
    ← Nat.shiftLeft_add_eq_or_of_lt hlo, Nat.shiftLeft_eq]

/-- The seven bits of a word from bit `k` on. -/
theorem shiftRight_and_lane_toNat (w : Word) (k : Nat) : (w >>> k &&& 0x7f#32).toNat = w.toNat / 2 ^ k % 128 := by
  rw [and_lane_toNat, BitVec.toNat_ushiftRight, Nat.shiftRight_eq_div_pow]

theorem pack14_toNat (v : BitVec 14) : (pack14 v).toNat = v.toNat % 128 + 256 * (v.toNat / 128) := by
  have wide : (v.setWidth 32 : Word).toNat = v.toNat := BitVec.toNat_setWidth_of_le (by decide)
  have low := and_lane_toNat (v.setWidth 32)
  have high := shiftRight_and_lane_toNat (v.setWidth 32) 7
  rw [wide] at low high
  rw [pack14, BitVec.or_comm, shiftLeft_or_toNat _ _ _ (by omega) (by omega), low, high]
  omega

theorem unpack14_toNat (w : Word) : (unpack14 w).toNat = 128 * (w.toNat / 256 % 128) + w.toNat % 128 := by
  have low := and_lane_toNat w
  have high := shiftRight_and_lane_toNat w 8
  rw [unpack14, BitVec.toNat_setWidth, shiftLeft_or_toNat _ _ _ (by omega) (by omega), low, high]
  omega

theorem unpack14_pack14 (v : BitVec 14) : unpack14 (pack14 v) = v := by
  apply BitVec.eq_of_toNat_eq
  rw [unpack14_toNat, pack14_toNat]
  omega

/-- Settles O8: the two groups of seven bits do not overlap, so each word is a sum. -/
theorem offsetPackingRoundTrip : Obligations.OffsetPackingRoundTrip :=
  ⟨pack14_toNat, unpack14_toNat, unpack14_pack14⟩

/-! ### Time codes and their fields (R66, R67) -/

/-- Fields within the range of their digits survive packing, times of day or not. -/
theorem ltcFields_ltcPack_of_digits (x : LtcFields) (hh : x.h < 40) (hm : x.m < 80) (hs : x.s < 80) (hf : x.f < 40) :
    ltcFields (ltcPack x) = x := by
  obtain ⟨f0, f1, s0, s1, m0, m1, h0, h1⟩ := ltcPack_digits x hh hm hs hf
  have df : (ltcPack x).getLsbD 6 = x.df := ltcPack_getLsbD x 6 (by decide)
  simp only [ltcFields, f0, f1, s0, s1, m0, m1, h0, h1, df, Nat.div_add_mod]

/-- The units digits have four bits; the tens digits two for hours and frames, three for minutes and seconds. -/
theorem ltcFields_le (c : Word) :
    (ltcFields c).h ≤ 45 ∧ (ltcFields c).f ≤ 45 ∧ (ltcFields c).m ≤ 85 ∧ (ltcFields c).s ≤ 85 := by
  have units (lo : Nat) : bitField c lo 4 < 16 := bitField_lt c lo 4
  have tens2 (lo : Nat) : bitField c lo 2 < 4 := bitField_lt c lo 2
  have tens3 (lo : Nat) : bitField c lo 3 < 8 := bitField_lt c lo 3
  have := units 0; have := units 8; have := units 16; have := units 24
  have := tens2 4; have := tens3 12; have := tens3 20; have := tens2 28
  simp only [ltcFields]
  omega

/-- Settles O9: the digits of a word are its runs of bits, as far as they go. -/
theorem ltcPackFieldsRoundTrip : Obligations.LtcPackFieldsRoundTrip := by
  refine ⟨fun c frames seconds minutes hours => ?_, ltcFields_ltcPack_of_digits, ltcPack_clean, ltcFields_le⟩
  apply ltcPack_ltcFields <;> rw [bitField_toNat]
  · simpa using frames
  · exact seconds
  · exact minutes
  · exact hours

/-! ### The fields of `TCO_CTL` (R70, R71) -/

/-- The offset has the low seven bits of the two low byte lanes (R72). -/
theorem unpack14_getLsbD (w : Word) (b : Nat) (hb : b < 14) :
    (unpack14 w).getLsbD b = if b < 7 then w.getLsbD b else w.getLsbD (b + 1) := by
  interval_cases b <;> simp [unpack14]

theorem unpack14_tcoCtlWord (cfg : TcoConfig) (rt : TcoRuntime) : unpack14 (tcoCtlWord cfg rt) = rt.outOffset := by
  apply BitVec.eq_of_getLsbD_eq
  intro b hb
  rw [unpack14_getLsbD _ _ hb, tcoCtlWord_getLsbD _ _ _ (by omega), tcoCtlWord_getLsbD _ _ _ (by omega)]
  interval_cases b <;> rfl

/-- A field of a word is read back bit by bit. -/
theorem extractLsb'_eq_of_bits (w : Word) (lo len : Nat) (v : BitVec len)
    (bits : ∀ b, b < len → w.getLsbD (lo + b) = v.getLsbD b) : w.extractLsb' lo len = v := by
  apply BitVec.eq_of_getLsbD_eq
  intro b hb
  rw [BitVec.getLsbD_extractLsb', bits b hb, decide_eq_true hb, Bool.true_and]

/-- Settles O11: each field by the bits of the word (Laws/Bits.lean). -/
theorem tcoCtlWordFields : Obligations.TcoCtlWordFields := by
  intro cfg rt
  have bit := tcoCtlWord_getLsbD cfg rt
  refine ⟨unpack14_tcoCtlWord cfg rt, bit 16 (by decide), bit 17 (by decide), ?fpsCode, ?syncSrc, bit 22 (by decide),
    ?srateMode, ?pull, bit 29 (by decide), ?zeros, tcoCtlWord_and_tcoMask cfg rt, ?wordClock⟩
  case fpsCode | syncSrc | srateMode | pull =>
    refine extractLsb'_eq_of_bits _ _ _ _ fun b hb => ?_
    rw [bit _ (by omega)]
    interval_cases b <;> rfl
  case zeros =>
    intro b hb
    fin_cases hb <;> exact bit _ (by decide)
  case wordClock => exact BitVec.toNat_setWidth_of_le (by decide)

/-! ### Timecode messages (R74) -/

/-- Byte `i` of the operand, the first the least significant (R80). -/
theorem messageByte_toNat (b : BitVec 80) (i : Nat) : (messageByte b i).toNat = b.toNat / 256 ^ i % 256 := by
  rw [messageByte, toNat_extractLsb', Nat.pow_mul]
  rfl

theorem isFullFrame_iff (len : BitVec 4) (b : BitVec 80) :
    isFullFrame len b = true ↔
      len = 10 ∧ messageByte b 0 = 0xF0 ∧ messageByte b 1 = 0x7F ∧ messageByte b 2 = 0x7F ∧ messageByte b 3 = 0x01 ∧
        messageByte b 4 = 0x01 ∧ (∀ i ∈ [5, 6, 7, 8], (messageByte b i).toNat < 0x80) ∧ messageByte b 9 = 0xF7 := by
  simp only [isFullFrame, Bool.and_eq_true, beq_iff_eq, List.all_eq_true, decide_eq_true_eq, and_assoc]

theorem isQuarterFrame_iff (len : BitVec 4) (b : BitVec 80) :
    isQuarterFrame len b = true ↔ len = 2 ∧ messageByte b 0 = 0xF1 ∧ (messageByte b 1).toNat < 0x80 := by
  simp only [isQuarterFrame, Bool.and_eq_true, beq_iff_eq, decide_eq_true_eq, and_assoc]

/-- The length tells the two forms apart. -/
theorem not_isFullFrame_of_isQuarterFrame {len : BitVec 4} {b : BitVec 80} (h : isQuarterFrame len b = true) :
    isFullFrame len b = false := by
  obtain ⟨rfl, -, -⟩ := (isQuarterFrame_iff len b).1 h
  rfl

theorem msgClass_eq_full_iff (len : BitVec 4) (b : BitVec 80) : msgClass len b = .full ↔ isFullFrame len b = true := by
  unfold msgClass
  split
  · simp only [*]
  · split <;> simp [*]

/-- The piece is the high nibble of the data byte, whose top bit is 0. -/
theorem piece_eq (d : Byte) (h : d.toNat < 0x80) : (d.extractLsb' 4 3).toNat = d.toNat / 16 := by
  rw [toNat_extractLsb']
  omega

theorem msgClass_eq_quarter_iff (len : BitVec 4) (b : BitVec 80) (p : Nat) :
    msgClass len b = .quarter p ↔ isQuarterFrame len b = true ∧ p = (messageByte b 1).toNat / 16 := by
  unfold msgClass
  cases quarter : isQuarterFrame len b with
  | false => split <;> simp
  | true =>
    obtain ⟨-, -, data⟩ := (isQuarterFrame_iff len b).1 quarter
    simp [not_isFullFrame_of_isQuarterFrame quarter, piece_eq _ data, eq_comm]

theorem qualifies_iff (m : MsgClass) : qualifies m = true ↔ m = .full ∨ m = .quarter 0 ∨ m = .quarter 4 := by
  cases m <;> simp [qualifies]

/-- The places of the payload bytes of a full-frame message. -/
theorem forall_payload_iff (P : Nat → Prop) : (∀ i ∈ [5, 6, 7, 8], P i) ↔ ∀ i, 5 ≤ i → i ≤ 8 → P i := by
  have range (i : Nat) : i ∈ [5, 6, 7, 8] ↔ 5 ≤ i ∧ i ≤ 8 := by
    simp only [List.mem_cons, List.not_mem_nil, or_false]
    omega
  simp only [range, and_imp]

/-- Settles O12: each check of a message form, said of the bytes as numbers. -/
theorem messageClassesByBytes : Obligations.MessageClassesByBytes := by
  intro len b
  have byteIs (i : Nat) (v : Byte) : messageByte b i = v ↔ b.toNat / 256 ^ i % 256 = v.toNat := by
    rw [← messageByte_toNat, BitVec.toNat_inj]
  have lengthIs (n : BitVec 4) : len = n ↔ len.toNat = n.toNat := BitVec.toNat_inj.symm
  refine ⟨?_, fun p => ?_, qualifies_iff _⟩
  · rw [msgClass_eq_full_iff, isFullFrame_iff]
    simp only [forall_payload_iff, messageByte_toNat, byteIs, lengthIs]
    rfl
  · rw [msgClass_eq_quarter_iff, isQuarterFrame_iff]
    simp only [messageByte_toNat, byteIs, lengthIs, and_assoc]
    rfl

/-! ### The sample rate (R61, R63) -/

theorem rateCode_toNat (ctl : Word) : (rateCode ctl).toNat = ctl.toNat / 64 % 16 :=
  toNat_extractLsb' ctl 6 4

theorem speedMode_eq (c : BitVec 4) : speedMode c = c.toNat / 4 := by
  rw [speedMode, toNat_extractLsb']
  omega

theorem rateValid_iff (c : BitVec 4) : rateValid c = true ↔ c.toNat % 4 ≠ 3 ∧ c.toNat / 4 ≠ 3 := by
  have low : (c.extractLsb' 0 2).toNat = c.toNat % 4 := by simp
  have high : (c.extractLsb' 2 2).toNat = c.toNat / 4 := speedMode_eq c
  simp only [rateValid, Bool.and_eq_true, bne_iff_ne, ne_eq, ← BitVec.toNat_inj, low, high]
  rfl

theorem sysRate_eq_some_iff (conf : Config) (ctl : Word) (r : SysRate) :
    sysRate conf ctl = some r ↔ RateIs conf ctl r := by
  obtain ⟨sr1, sf, mode⟩ := r
  simp only [sysRate, RateIs, ← rateCode_toNat, ← and_assoc, ← rateValid_iff]
  cases rateValid (rateCode ctl) with
  | false => simp
  | true =>
    rcases conf.rates[(rateCode ctl).toNat]? with _ | _ | ⟨sr1', sf'⟩
    · simp
    · simp
    · simp [speedMode_eq, eq_comm, and_assoc]

/-- The default `RATE` is the table of R63. -/
theorem standard_rates (code : Nat) (h : code < 16) : Config.standard.rates[code]? =
    some (if code % 4 = 3 ∨ code / 4 = 3 then none
      else some ⟨if code % 4 = 0 then 32000 else if code % 4 = 1 then 44100 else 48000, 2 ^ (code / 4)⟩) := by
  interval_cases code <;> rfl

/-! ### `INBOUND_DECODE` (43_ltc_decoder R150 to R152) -/

/-- The frame rate of the two bits of the status word; the reserved value reads as 30. -/
theorem inboundFps_eq (t : Word) :
    inboundFps (decodeTcoStat t).inFps =
      if t.toNat / 65536 % 4 = 0 then 24 else if t.toNat / 65536 % 4 = 1 then 25 else 30 := by
  have code : (decodeTcoStat t).inFps.toNat = t.toNat / 65536 % 4 := toNat_extractLsb' t 16 2
  rw [inboundFps, code]
  split <;> simp_all

/-- Cleaning a code keeps its drop-frame flag. -/
theorem and_ltcClean_df (c : Word) : (c &&& ltcClean).getLsbD 6 = c.getLsbD 6 := by
  rw [BitVec.getLsbD_and, ltcClean_getLsbD 6 (by decide)]
  exact Bool.and_true _

/-- With an answer queued for each of the two registers, the step takes the first of each and publishes from them. -/
theorem inboundDecode_queued {s : State} {r : SysRate} {a b : Word} {as bs : List Word}
    (rate : sysRate s.conf s.hw.ctl = some r) (ltcIn : s.env.ltcIn = a :: as) (tcoStat : s.env.tcoStat = b :: bs) :
    inboundDecode s = publishInbound a b r.sf { s with env := { s.env with ltcIn := as, tcoStat := bs } } := by
  simp only [inboundDecode, rate, readAnswer, afterRead, envAfterRead, nextOr, drawsAfter, ltcIn, tcoStat,
    List.tail_cons]

/-- Settles O45: the rate read off the control word, the two answers taken, and each published field by the bits of
the status word. -/
theorem inboundDecodePublishes : Obligations.InboundDecodePublishes := by
  refine ⟨sysRate_eq_some_iff, standard_rates, fun s r a b as bs rate ltcIn tcoStat => ?_⟩
  rw [inboundDecode_queued ((sysRate_eq_some_iff _ _ _).2 rate) ltcIn tcoStat, publishInbound]
  have offset : (decodeTcoStat b).offset.toNat = 128 * (b.toNat / 256 % 128) + b.toNat % 128 := unpack14_toNat b
  simp only [inboundFps_eq, and_ltcClean_df, norm, offset, beq_eq_decide]
  rfl

end Sys2Proof.Machine

/-! The frame counter (spec/40_frame_counter.md R90 to R101). `FC.UPDATE` in natural numbers says everything about a
single update; while nothing overflows 64 bits it says that the count is the period boundary of a position, and with
that the two statements about successive updates are arithmetic of positions. -/

namespace Sys2Proof.Machine

/-! ### One update (R92 to R94) -/

/-- The hardware pointer is the raw field in frames, modulo the wrap period. No shift is too wide for this: the bits
that leave the word are multiples of the wrap period. -/
theorem hwPointer_toNat {conf : Config} (width : conf.ptrWidth = 16) {buffer : Word} {k : Nat}
    (pow : buffer.toNat = 2 ^ k) (status : Word) :
    (hwPointer conf buffer status).toNat =
      status.toNat / 2 ^ conf.ptrLsb % 2 ^ 16 * 2 ^ conf.ptrShift % buffer.toNat := by
  have raw : (status >>> conf.ptrLsb &&& BitVec.ofNat 32 (2 ^ conf.ptrWidth - 1)).toNat =
      status.toNat / 2 ^ conf.ptrLsb % 2 ^ 16 := by
    rw [width, BitVec.toNat_and, BitVec.toNat_ushiftRight, Nat.shiftRight_eq_div_pow]
    exact Nat.and_two_pow_sub_one_eq_mod _ 16
  have inWord : 2 ^ k ∣ 2 ^ 32 := pow_dvd_pow 2 (exponent_lt buffer k pow).le
  rw [hwPointer, and_pred_toNat _ _ k pow, BitVec.toNat_shiftLeft, raw, Nat.shiftLeft_eq, Nat.mod_mod_of_dvd _ inWord,
    pow]

/-- Settles O20: the pointer, the wrap count and the frame count of one update. -/
theorem frameCountFormula : Obligations.FrameCountFormula := by
  intro s confOk sizes W P p wraps
  obtain ⟨j, k, -, -, -, -, period, buffer⟩ := sizes_two_pow s confOk sizes
  obtain ⟨⟨-, -, width, -⟩, -⟩ := (Config.ok_iff s.conf).1 confOk
  have pointer : (hwPointer s.conf s.fc.hwBufferSize s.hw.status).toNat = p := hwPointer_toNat width buffer _
  have wrapped : (fcUpdate s).fc.wrapCount.toNat = wraps := by
    rw [fcUpdate_fc, fcAdvance_wrapCount, pointer]
  refine ⟨(fcUpdate s).fc, rfl, rfl, rfl, pointer, wrapped, ?_⟩
  have count := fcAdvance_frameCount s.fc (hwPointer s.conf s.fc.hwBufferSize s.hw.status) j period
  rw [← fcUpdate_fc, wrapped, pointer, ← period] at count
  exact count

/-! ### Updates that stay below 64 bits (R96) -/

/-- Rounding down to a period, as `FC.UPDATE` does it to the pointer (R93), is rounding down the position that the wraps
and the pointer make up. -/
theorem wraps_add_floor {j k : Nat} (le : j ≤ k) (w p : Nat) :
    w * 2 ^ k + 2 ^ j * (p / 2 ^ j) = 2 ^ j * ((w * 2 ^ k + p) / 2 ^ j) := by
  obtain ⟨d, rfl⟩ := Nat.exists_eq_add_of_le le
  have whole : w * 2 ^ (j + d) = 2 ^ j * (w * 2 ^ d) := by ring
  rw [whole, Nat.mul_add_div (by positivity), mul_add]

/-- An update that overflows nothing counts its wraps and the whole periods of its pointer. -/
theorem fcAdvance_frameCount_of_lt {fc : FrameCounter} {p : Word} {j k : Nat} (period : fc.periodSize.toNat = 2 ^ j)
    (buffer : fc.hwBufferSize.toNat = 2 ^ k) (fits : (fcAdvance fc p).wrapCount.toNat * 2 ^ k + p.toNat < 2 ^ 64) :
    (fcAdvance fc p).frameCount.toNat = (fcAdvance fc p).wrapCount.toNat * 2 ^ k + 2 ^ j * (p.toNat / 2 ^ j) := by
  have floor : 2 ^ j * (p.toNat / 2 ^ j) ≤ p.toNat := Nat.mul_div_le _ _
  rw [fcAdvance_frameCount fc p j period, buffer, Nat.mod_eq_of_lt (by omega)]

/-- "`period_floor(p0) <= W - P`" (R96). -/
theorem floor_add_period_le {j k p : Nat} (le : j ≤ k) (lt : p < 2 ^ k) : 2 ^ j * (p / 2 ^ j) + 2 ^ j ≤ 2 ^ k := by
  obtain ⟨d, rfl⟩ := Nat.exists_eq_add_of_le le
  have below : p / 2 ^ j < 2 ^ d := Nat.div_lt_of_lt_mul (by rwa [← pow_add])
  calc 2 ^ j * (p / 2 ^ j) + 2 ^ j = 2 ^ j * (p / 2 ^ j + 1) := by ring
    _ ≤ 2 ^ j * 2 ^ d := Nat.mul_le_mul_left _ below
    _ = 2 ^ (j + d) := (pow_add 2 j d).symm

theorem floor_mono {j a b : Nat} (le : a ≤ b) : 2 ^ j * (a / 2 ^ j) ≤ 2 ^ j * (b / 2 ^ j) :=
  Nat.mul_le_mul_left _ (Nat.div_le_div_right le)

/-- The wrap count grows by at most one. -/
theorem fcAdvance_wrapCount_le (fc : FrameCounter) (p : Word) :
    (fcAdvance fc p).wrapCount.toNat ≤ fc.wrapCount.toNat + 1 := by
  rw [fcAdvance_wrapCount]
  split <;> omega

/-- Without a wrap the wrap count stays (R94). -/
theorem fcAdvance_wrapCount_of_le {fc : FrameCounter} {p : Word} (le : fc.lastHwPointer.toNat ≤ p.toNat) :
    (fcAdvance fc p).wrapCount = fc.wrapCount := by
  apply BitVec.eq_of_toNat_eq
  rw [fcAdvance_wrapCount, if_neg (Nat.not_lt.mpr le)]

/-- On a wrap the wrap count grows by one, until it overflows (R94). -/
theorem fcAdvance_wrapCount_of_lt {fc : FrameCounter} {p : Word} (lt : p.toNat < fc.lastHwPointer.toNat)
    (fits : fc.wrapCount.toNat + 1 < 2 ^ 64) : (fcAdvance fc p).wrapCount.toNat = fc.wrapCount.toNat + 1 := by
  rw [fcAdvance_wrapCount, if_pos lt, Nat.mod_eq_of_lt fits]

/-- Settles O21: both counts are wraps and whole periods; the second pointer tells whether a wrap joins, and a wrap
outweighs what the pointer falls back by at least a period. -/
theorem frameCountMonotonic : Obligations.FrameCountMonotonic := by
  intro fc p0 p1 j k period buffer le lt0 lt1 fits f0 f1 floor
  have wraps0 : f0.wrapCount.toNat ≤ fc.wrapCount.toNat + 1 := fcAdvance_wrapCount_le fc p0
  have wraps1 : f1.wrapCount.toNat ≤ f0.wrapCount.toNat + 1 := fcAdvance_wrapCount_le f0 p1
  have room {w p : Nat} (hw : w ≤ fc.wrapCount.toNat + 2) (hp : p < 2 ^ k) : w * 2 ^ k + p < 2 ^ 64 :=
    calc w * 2 ^ k + p < (w + 1) * 2 ^ k := by rw [add_one_mul]; omega
      _ ≤ (fc.wrapCount.toNat + 3) * 2 ^ k := Nat.mul_le_mul_right _ (by omega)
      _ < 2 ^ 64 := fits
  have count0 : f0.frameCount.toNat = f0.wrapCount.toNat * 2 ^ k + floor p0 :=
    fcAdvance_frameCount_of_lt period buffer (room (wraps0.trans (by omega)) lt0)
  have count1 : f1.frameCount.toNat = f1.wrapCount.toNat * 2 ^ k + floor p1 :=
    fcAdvance_frameCount_of_lt period buffer (room (wraps1.trans (by omega)) lt1)
  constructor
  · intro forward
    have same : f1.wrapCount = f0.wrapCount := fcAdvance_wrapCount_of_le forward
    have mono : floor p0 ≤ floor p1 := floor_mono forward
    rw [count0, count1, same]
    exact ⟨rfl, by omega, by omega⟩
  · intro wrap
    have small : fc.wrapCount.toNat + 3 < 2 ^ 64 :=
      lt_of_le_of_lt (Nat.le_mul_of_pos_right _ (by positivity)) fits
    have grown : f1.wrapCount.toNat = f0.wrapCount.toNat + 1 := fcAdvance_wrapCount_of_lt wrap (by omega)
    have atMost : floor p0 + 2 ^ j ≤ 2 ^ k := floor_add_period_le le lt0
    rw [count0, count1, grown, add_one_mul]
    exact ⟨rfl, by omega, by omega⟩

/-! ### Updates in time (R95, R97) -/

/-- The counter agrees with the engine's true position `x`: the pointer and the wraps make it up. -/
structure AgreesWith (fc : FrameCounter) (j k x : Nat) : Prop where
  period : fc.periodSize.toNat = 2 ^ j
  buffer : fc.hwBufferSize.toNat = 2 ^ k
  pointer : fc.lastHwPointer.toNat = x % 2 ^ k
  wraps : fc.wrapCount.toNat = x / 2 ^ k

/-- A position that advances by less than a wrap period passes at most one wrap, and its pointer falls back exactly
then (R95). -/
theorem wraps_of_advance {m x y : Nat} (le : x ≤ y) (lt : y < x + m) :
    y / m = if y % m < x % m then x / m + 1 else x / m := by
  have pos : 0 < m := by omega
  have hx := Nat.div_add_mod x m
  have hy := Nat.div_add_mod y m
  have rx := Nat.mod_lt x pos
  have ry := Nat.mod_lt y pos
  have lower : x / m ≤ y / m := Nat.div_le_div_right le
  have upper : y / m ≤ x / m + 1 := by
    rw [← Nat.add_div_right x pos]
    exact Nat.div_le_div_right lt.le
  obtain same | next : y / m = x / m ∨ y / m = x / m + 1 := by omega
  · rw [same] at hy ⊢
    rw [if_neg (by omega)]
  · rw [next, mul_add_one] at hy
    rw [next, if_pos (by omega)]

/-- The pointer that the engine shows at position `y`. -/
theorem pointerAt_toNat {fc : FrameCounter} {j k x : Nat} (h : AgreesWith fc j k x) (y : Nat) :
    (BitVec.ofNat 32 (y % 2 ^ k) : Word).toNat = y % 2 ^ k := by
  have inWord : 2 ^ k < 2 ^ 32 := h.buffer ▸ fc.hwBufferSize.isLt
  have below : y % 2 ^ k < 2 ^ k := Nat.mod_lt _ (by positivity)
  rw [BitVec.toNat_ofNat, Nat.mod_eq_of_lt (below.trans inWord)]

/-- An update in time keeps the agreement (R97). -/
theorem AgreesWith.advance {fc : FrameCounter} {j k x y : Nat} (h : AgreesWith fc j k x)
    (inTime : x ≤ y ∧ y < x + 2 ^ k) (fits : y < 2 ^ 64) :
    AgreesWith (fcAdvance fc (BitVec.ofNat 32 (y % 2 ^ k))) j k y where
  period := h.period
  buffer := h.buffer
  pointer := pointerAt_toNat h y
  wraps := by
    have passed := wraps_of_advance inTime.1 inTime.2
    have small : y / 2 ^ k < 2 ^ 64 := lt_of_le_of_lt (Nat.div_le_self _ _) fits
    rw [fcAdvance_wrapCount, pointerAt_toNat h, h.pointer, h.wraps]
    split at passed
    · rw [if_pos ‹_›, ← passed, Nat.mod_eq_of_lt small]
    · rw [if_neg ‹_›, ← passed]

/-- After an update in time the count is the period boundary at or just below the position (R94). -/
theorem AgreesWith.frameCount_advance {fc : FrameCounter} {j k x y : Nat} (h : AgreesWith fc j k x) (le : j ≤ k)
    (inTime : x ≤ y ∧ y < x + 2 ^ k) (fits : y < 2 ^ 64) :
    (fcAdvance fc (BitVec.ofNat 32 (y % 2 ^ k))).frameCount.toNat = 2 ^ j * (y / 2 ^ j) := by
  have wraps := (h.advance inTime fits).wraps
  have position : y / 2 ^ k * 2 ^ k + y % 2 ^ k = y := Nat.div_add_mod' y (2 ^ k)
  rw [fcAdvance_frameCount_of_lt h.period h.buffer (by rwa [wraps, pointerAt_toNat h, position]), wraps,
    pointerAt_toNat h, wraps_add_floor le, position]

/-- Settles O22: each update in time keeps the agreement with the position, and the last one publishes its period
boundary. -/
theorem frameCountTracksPosition : Obligations.FrameCountTracksPosition := by
  intro fc j k x xs period buffer le nonempty pointer wraps chain fits
  have agrees : AgreesWith fc j k x := ⟨period, buffer, pointer, wraps⟩
  clear period buffer pointer wraps
  induction xs generalizing fc x with
  | nil => exact absurd rfl nonempty
  | cons y ys ih =>
    obtain ⟨inTime, rest⟩ := List.isChain_cons_cons.1 chain
    obtain ⟨fitsHere, fitsRest⟩ := List.forall_mem_cons.1 fits
    cases ys with
    | nil => exact agrees.frameCount_advance le inTime fitsHere
    | cons z zs => exact ih _ y (List.cons_ne_nil z zs) rest fitsRest (agrees.advance inTime fitsHere)

/-! ### `FC.SETLAT` (R98) -/

/-- Every known family has a period size for every latency code, 64 frames doubled by each step of the code but for the
last code of the new family (R90). -/
theorem periodSizeFromLatency_toNat {code : Nat} {family : Family} (legal : code ≤ 7)
    (known : family ≠ .unrecognised) :
    ∃ p, periodSizeFromLatency code family = some p ∧
      p.toNat = if family = .new ∧ code = 7 then 32 else 64 * 2 ^ code := by
  have doubled : (64#32 <<< code).toNat = 64 * 2 ^ code := by interval_cases code <;> rfl
  cases family with
  | unrecognised => exact absurd rfl known
  | legacy => exact ⟨_, rfl, by simpa using doubled⟩
  | new =>
    refine ⟨_, rfl, ?_⟩
    by_cases last : code = 7
    · simp [last]
    · simpa [last] using doubled

/-- The wrap period as a number (R91): twice a period size that leaves room for it. -/
theorem wrapPeriod_toNat (conf : Config) {p : Word} (room : p.toNat < 2 ^ 31) :
    (wrapPeriod conf p).toNat = if conf.family = .new then conf.wFixed % 2 ^ 32 else 2 * p.toNat := by
  unfold wrapPeriod
  split
  · exact BitVec.toNat_ofNat _ _
  · bv_omega

theorem periodSize_lt {code : Nat} {family : Family} {p : Word} (legal : code ≤ 7)
    (size : periodSizeFromLatency code family = some p) : p.toNat < 2 ^ 31 := by
  obtain ⟨j, -, small, pow⟩ := periodSize_two_pow code family p (by omega) size
  rw [pow]
  exact Nat.pow_lt_pow_right (by omega) (by omega)

/-- The latency field occupies the bits 1 to 3 (R61). -/
theorem ctlSet_lat_getLsbD_outside (w : Word) (v b : Nat) (outside : b = 0 ∨ 4 ≤ b) :
    (ctlSet w .lat v).getLsbD b = w.getLsbD b := by
  rcases outside with rfl | above
  · exact ctlSet_getLsbD w .lat v 0 (by decide)
  · exact ctlSet_lat_getLsbD w v b above

section
variable {code : U64} {s : State}

theorem execFcSetlat_down (down : s.devUp = false) : execFcSetlat code s = neutral .none s := if_pos down

theorem execFcSetlat_high (up : s.devUp = true) (high : 7 < code.toNat) : execFcSetlat code s = raise .inval s := by
  rw [execFcSetlat, if_neg (by simp [up]), if_pos high]

theorem execFcSetlat_same (up : s.devUp = true) (same : code.toNat = ctlGet s.hw.ctl .lat) :
    execFcSetlat code s = answer .ok false .none s := by
  have legal : ¬7 < code.toNat := by
    have := ctlGet_lat_lt s.hw.ctl
    omega
  rw [execFcSetlat, if_neg (by simp [up]), if_neg legal, if_pos same]

theorem execFcSetlat_unrecognised (up : s.devUp = true) (legal : code.toNat ≤ 7)
    (other : code.toNat ≠ ctlGet s.hw.ctl .lat) (unknown : s.conf.family = .unrecognised) :
    execFcSetlat code s = raise .assert s := by
  rw [execFcSetlat, if_neg (by simp [up]), if_neg (by omega), if_neg other, unknown]
  rfl

/-- A legal code other than the one in `CONTROL` changes the sizes and the control word. -/
theorem execFcSetlat_change {p : Word} (up : s.devUp = true) (legal : code.toNat ≤ 7)
    (other : code.toNat ≠ ctlGet s.hw.ctl .lat)
    (size : periodSizeFromLatency code.toNat s.conf.family = some p) :
    execFcSetlat code s = answer .ok true .none (emit .notifyConfig (setControl (ctlSet s.hw.ctl .lat code.toNat)
      { s with fc := { s.fc with periodSize := p, hwBufferSize := wrapPeriod s.conf p } })) := by
  rw [execFcSetlat, if_neg (by simp [up]), if_neg (by omega), if_neg other, size]
  rfl

end

/-- Settles O23: the cases of the rule one by one; in the last one the new sizes are those of R90 and R91. -/
theorem fcSetlat : Obligations.FcSetlat := by
  intro code s
  refine ⟨execFcSetlat_down, fun up => ?_⟩
  rw [← ctlGet_lat]
  refine ⟨execFcSetlat_high up, execFcSetlat_same up, fun legal other =>
    ⟨execFcSetlat_unrecognised up legal other, fun known => ?_⟩⟩
  obtain ⟨p, size, frames⟩ := periodSizeFromLatency_toNat legal known
  have latency : (ctlSet s.hw.ctl .lat code.toNat).toNat / 2 % 8 = code.toNat := by
    rw [← ctlGet_lat, ctlGet_lat_ctlSet _ _ (by omega)]
  refine ⟨ctlSet s.hw.ctl .lat code.toNat, p, wrapPeriod s.conf p, latency, ctlSet_lat_getLsbD_outside _ _, frames,
    wrapPeriod_toNat _ (periodSize_lt legal size), ?_⟩
  refine (execFcSetlat_change up legal other size).trans ?_
  simp [setControl_eq, emit, State.answered]

/-! ### `FC.RESET` and `FC.READ` (R100, R101) -/

/-- From a counter that stands at zero no pointer is a wrap, so the count is the period boundary of the pointer. -/
theorem fcAdvance_frameCount_of_zero {fc : FrameCounter} (wraps : fc.wrapCount = 0) (pointer : fc.lastHwPointer = 0)
    (p : Word) : (fcAdvance fc p).frameCount = (periodFloor fc.periodSize p).setWidth 64 := by
  have same : (fcAdvance fc p).wrapCount = 0 := by
    rw [fcAdvance_wrapCount_of_le (by rw [pointer]; exact Nat.zero_le _), wraps]
  calc (fcAdvance fc p).frameCount
      = (fcAdvance fc p).wrapCount * fc.hwBufferSize.setWidth 64 + (periodFloor fc.periodSize p).setWidth 64 := rfl
    _ = (periodFloor fc.periodSize p).setWidth 64 := by simp [same]

/-- Settles O24: the operation by the device's state, then the first update from zero. -/
theorem fcReset : Obligations.FcReset := fun s =>
  ⟨fun down => if_pos down, fun up =>
    ⟨_, if_neg (by simp [up]), rfl, fun p => fcAdvance_frameCount_of_zero rfl rfl p⟩⟩

/-- Settles O25: the operation by the device's state. -/
theorem fcRead : Obligations.FcRead := fun _ => ⟨fun down => if_pos down, fun up => if_neg (by simp [up])⟩

end Sys2Proof.Machine

/-! The interrupt scheduler (spec/41_interrupt_scheduler.md R110 to R123). An `IRQ` answers one result on what serving
the snapshot makes of the state; serving is the audio step, if audio is asserted, and then the ports. Each of the other
commands ends in one case of its rule. -/

namespace Sys2Proof.Machine

/-! ### The conditions of the status word (R111) -/

/-- No port that exists shows data. -/
theorem anyMidi_eq_false (c : Config) (st : Word) :
    anyMidi c st = false ↔ ∀ p, p < c.nMidi → st.getLsbD (c.irqMidiBit + p) = false := by
  rw [← Bool.not_eq_true, anyMidi_eq_true]
  simp

/-- `any_midi` looks at existing ports only, so the bits of the word alone decide it. -/
theorem anyMidi_eq_any_getLsbD (c : Config) (st : Word) :
    anyMidi c st = (List.range c.nMidi).any fun p => st.getLsbD (c.irqMidiBit + p) := by
  rw [Bool.eq_iff_iff, anyMidi_eq_true]
  simp

/-! ### `IRQ` and the service of its snapshot (R112, R113, R117) -/

section
variable {s : State}

theorem execIrq_quiet (up : s.devUp = true) (audio : statusAudio s.conf (readAnswer .status s) = false)
    (midi : anyMidi s.conf (readAnswer .status s) = false) :
    execIrq s = answer .ok false notHandled (takeSnapshot s) := by
  rw [execIrq, if_neg (by simp [up])]
  exact if_neg (by simp [audio, midi])

theorem execIrq_asserted (up : s.devUp = true)
    (asserted : statusAudio s.conf (readAnswer .status s) = true ∨ anyMidi s.conf (readAnswer .status s) = true) :
    execIrq s = answer .ok false handled (serviceIrq (takeSnapshot s)) := by
  rw [execIrq, if_neg (by simp [up])]
  exact if_pos (by simpa using asserted)

theorem serviceIrq_midi (audio : statusAudio s.conf s.hw.status = false) (midi : anyMidi s.conf s.hw.status = true) :
    serviceIrq s = midiStep s := by
  simp [serviceIrq, audio, midi]

/-- The ports of an audio interrupt, with data or without: the MIDI step, or nothing, as one update (R116). -/
theorem servePorts_eq (s : State) :
    ∃ ctl pend, (if anyMidi s.conf s.hw.status then midiStep s else s) = { s with
        hw := { s.hw with ctl := ctl }
        sch := { s.sch with midiPending := pend }
        events := s.events ++ if anyMidi s.conf s.hw.status then [.regwrite .control ctl, .deferMidiDrain] else [] } ∧
      (∀ b, b < 32 → (ctl.getLsbD b = true ↔
        s.hw.ctl.getLsbD b = true ∧ ¬∃ p, statusMidi s.conf s.hw.status p = true ∧ b = 22 + p)) ∧
      (∀ q, q < 4 → (midiPendingAt pend q = true ↔
        midiPendingAt s.sch.midiPending q = true ∨ statusMidi s.conf s.hw.status q = true)) := by
  cases midi : anyMidi s.conf s.hw.status
  · have silent (p : Nat) : ¬statusMidi s.conf s.hw.status p = true := by
      rw [statusMidi_eq_true]
      rintro ⟨port, bit⟩
      simp [(anyMidi_eq_false _ _).mp midi p port] at bit
    exact ⟨s.hw.ctl, s.sch.midiPending, by simp, by simp [silent], by simp [silent]⟩
  · exact midiStep_eq s

end

/-- Settles O26: nothing is served, so the snapshot is all there is. -/
theorem irqNotHandled : Obligations.IrqNotHandled := fun _ up audio midi =>
  execIrq_quiet up audio ((anyMidi_eq_false _ _).mpr midi)

/-- Settles O29: an asserted condition is served and the result joins what stood there before; otherwise nothing is
served. -/
theorem irqReportsHandled : Obligations.IrqReportsHandled := by
  intro s up st
  by_cases asserted : statusAudio s.conf st = true ∨ anyMidi s.conf st = true
  · refine ⟨_, 1, execIrq_asserted up asserted, ?_, .inl ⟨rfl, asserted.imp_right (anyMidi_eq_true _ _).mp⟩⟩
    exact congrArg (· ++ _) (serviceIrq_appends (takeSnapshot s)).results
  · obtain ⟨audio, midi⟩ := not_or.mp asserted
    rw [Bool.not_eq_true] at audio midi
    exact ⟨_, 0, execIrq_quiet up audio midi, rfl, .inr ⟨rfl, audio, (anyMidi_eq_false _ _).mp midi⟩⟩

/-- Settles O27: without audio the service is the MIDI step on the snapshot. -/
theorem irqMidiStep : Obligations.IrqMidiStep := by
  intro s up st data audio midi
  have any : anyMidi s.conf st = true := (anyMidi_eq_true _ _).mpr midi
  obtain ⟨ctl, pend, step, cleared, marked⟩ := midiStep_eq (takeSnapshot s)
  simp only [statusMidi_eq_true] at cleared marked
  refine ⟨ctl, pend, cleared, marked, (execIrq_asserted up (.inr any)).trans ?_⟩
  rw [serviceIrq_midi (s := takeSnapshot s) audio any, step]
  rfl

/-! ### The timecode hook (43_ltc_decoder R148, R155) -/

theorem latchClear_pendKind (s : State) : (latchClear s).rt.pendKind = s.rt.pendKind := by
  rcases latchClear_cases s with ⟨-, h⟩ | ⟨-, h⟩ <;> rw [h]

theorem inboundDecode_pendKind (s : State) : (inboundDecode s).rt.pendKind = s.rt.pendKind := by
  rcases inboundDecode_cases s with ⟨-, h⟩ | ⟨r, -, h⟩ <;> rw [h] <;> rfl

theorem inboundStep_pendKind (s : State) : (inboundStep s).rt.pendKind = s.rt.pendKind := by
  unfold inboundStep
  split
  · exact inboundDecode_pendKind s
  · rfl

/-- With a module the hook is its three steps in order. The two before a step leave the flag that decides on it as it was
when the hook began. -/
theorem tcoElapsed_present (s : State) (present : s.rt.tcoPresent = true) :
    tcoElapsed s =
      if s.rt.pendKind = .none then inboundStep (latchClear s) else schedule (inboundStep (latchClear s)) := by
  rw [tcoElapsed, if_neg (by simp [present]), outboundStep, inboundStep_pendKind, latchClear_pendKind]

/-- Clearing the set flag leaves the flag that decides on decoding. -/
theorem inboundStep_latchClear (s : State) :
    inboundStep (latchClear s) = if s.rt.ltcChanged = true then inboundDecode (latchClear s) else latchClear s := by
  rw [inboundStep, latchClear_ltcChanged]

/-! ### The audio interrupt (R114, R115) -/

theorem pollDue_eq_true (conf : Config) (sch : Scheduler) (now : U64) :
    pollDue conf sch now = true ↔
      0 < sch.pollRate.toNat ∧ conf.pollUnitNs / sch.pollRate.toNat ≤ (now - sch.lastPollNs).toNat := by
  simp [pollDue]

theorem afterNow_env_of_cons {s : State} {n : U64} {later : List U64} (queued : s.env.now = n :: later) :
    nowAnswer s = n ∧ (afterNow s).env = { s.env with now := later } := by
  simp [nowAnswer, nextOr, drawsAfter, queued]

theorem afterNow_env_of_nil {s : State} (empty : s.env.now = []) :
    nowAnswer s = Config.freeNow s.env.draws ∧ (afterNow s).env = { s.env with draws := s.env.draws + 1 } := by
  simp [nowAnswer, nextOr, drawsAfter, empty]

theorem audioStep_conf (s : State) : (audioStep s).conf = s.conf := (audioStep_appends s).conf

theorem audioStep_hw (s : State) : (audioStep s).hw = s.hw := by
  rw [audioStep_eq]
  exact (tcoElapsed_hook _).hw

theorem audioStep_fc (s : State) : (audioStep s).fc = (fcUpdate (acknowledge s)).fc := by
  rw [audioStep_eq]
  exact (tcoElapsed_hook _).fc

theorem audioStep_cfg (s : State) : (audioStep s).cfg = (tcoElapsed (fcUpdate (acknowledge s))).cfg := by
  rw [audioStep_eq]

theorem audioStep_rt (s : State) : (audioStep s).rt = (tcoElapsed (fcUpdate (acknowledge s))).rt := by
  rw [audioStep_eq]

theorem audioStep_env (s : State) :
    (audioStep s).env = (afterNow (tcoElapsed (fcUpdate (acknowledge s)))).env := by
  rw [audioStep_eq]

theorem audioStep_midiPending (s : State) : (audioStep s).sch.midiPending = s.sch.midiPending := by
  rw [audioStep_eq]

/-- The count goes up by one, and the time of the last refresh moves when one is due. -/
theorem audioStep_sch (s : State) :
    let now := nowAnswer (tcoElapsed (fcUpdate (acknowledge s)))
    (audioStep s).sch = { s.sch with
      irqCount := s.sch.irqCount + 1
      lastPollNs := if pollDue s.conf s.sch now then now else s.sch.lastPollNs } := by
  rw [audioStep_eq]
  rfl

/-- The order of an audio interrupt: the acknowledge, the hook, the consumers, the refresh (R112). -/
theorem audioStep_events (s : State) {hook : List Event}
    (added : (tcoElapsed (fcUpdate (acknowledge s))).events = (fcUpdate (acknowledge s)).events ++ hook) :
    let now := nowAnswer (tcoElapsed (fcUpdate (acknowledge s)))
    (audioStep s).events = s.events ++ [.regwrite .irqAck 0] ++ hook ++
      (if s.sch.capPresent then [.notifyPcm .capture] else []) ++
      (if s.sch.pbPresent then [.notifyPcm .playback] else []) ++
      (if pollDue s.conf s.sch now then [.deferStatusRefresh] else []) := by
  rw [audioStep_eq, added]
  rfl

/-- Serving an interrupt with the audio condition: the audio step, and on what it leaves the ports, which it does not
look at. -/
theorem serviceIrq_audio {s : State} (audio : statusAudio s.conf s.hw.status = true) :
    ∃ ctl pend, serviceIrq s = { audioStep s with
        hw := { s.hw with ctl := ctl }
        sch := { (audioStep s).sch with midiPending := pend }
        events := (audioStep s).events ++
          if anyMidi s.conf s.hw.status then [.regwrite .control ctl, .deferMidiDrain] else [] } ∧
      (∀ b, b < 32 → (ctl.getLsbD b = true ↔
        s.hw.ctl.getLsbD b = true ∧ ¬∃ p, statusMidi s.conf s.hw.status p = true ∧ b = 22 + p)) ∧
      (∀ q, q < 4 → (midiPendingAt pend q = true ↔
        midiPendingAt s.sch.midiPending q = true ∨ statusMidi s.conf s.hw.status q = true)) := by
  have ports := servePorts_eq (audioStep s)
  rw [audioStep_conf, audioStep_hw, audioStep_midiPending] at ports
  obtain ⟨ctl, pend, served, cleared, marked⟩ := ports
  refine ⟨ctl, pend, ?_, cleared, marked⟩
  simp only [serviceIrq, audio, if_true, audioStep_conf, audioStep_hw]
  exact served

/-- Settles O28: the hook by its steps; the interrupt by the service of its snapshot, whose audio step is the hook, what
follows it, and one sample of the clock. -/
theorem irqAudioOrder : Obligations.IrqAudioOrder := by
  refine ⟨fun s => ⟨tcoElapsed_absent s, fun present => ?_⟩, ?_⟩
  · intro cleared decoded
    rw [tcoElapsed_present s present, inboundStep_latchClear]
  intro s up st audio before now due data
  have frame : HookStep before (tcoElapsed before) := tcoElapsed_hook before
  obtain ⟨hook, added, kinds⟩ := frame.events
  obtain ⟨ctl, pend, served, cleared, marked⟩ := serviceIrq_audio (s := takeSnapshot s) audio
  simp only [statusMidi_eq_true] at cleared marked
  rw [anyMidi_eq_any_getLsbD] at served
  have sch := audioStep_sch (takeSnapshot s)
  have events := audioStep_events (takeSnapshot s) added
  simp only [pollDue_eq_true] at sch events
  have env : (audioStep (takeSnapshot s)).env = (afterNow (tcoElapsed before)).env := audioStep_env _
  have kept := audioStep_appends (takeSnapshot s)
  refine ⟨_, hook, (execIrq_asserted up (.inl audio)).trans (congrArg _ served), added, fun e he => (kinds e he).1,
    congrArg (· ++ _) events, audioStep_fc _, audioStep_rt _, audioStep_cfg _, rfl, cleared, marked,
    congrArg ({ · with midiPending := pend }) sch, fun n later queued => ?_, fun empty => ?_,
    (audioStep_devUp _).trans up, kept.conf, kept.port, congrArg (· ++ _) kept.results, fun absent => ?_⟩
  · obtain ⟨sample, rest⟩ := afterNow_env_of_cons (frame.now.trans queued)
    exact ⟨sample, env.trans rest⟩
  · obtain ⟨sample, rest⟩ := afterNow_env_of_nil (frame.now.trans empty)
    exact ⟨sample, env.trans rest⟩
  · have idle : tcoElapsed before = before := tcoElapsed_absent before absent
    rw [idle] at added
    have rt : (tcoElapsed before).rt = s.rt := by rw [idle]; rfl
    have cfg : (tcoElapsed before).cfg = s.cfg := by rw [idle]; rfl
    exact ⟨List.self_eq_append_right.mp added, (audioStep_rt _).trans rt, (audioStep_cfg _).trans cfg⟩

/-! ### The commands of collaborators and of the user (R120 to R123) -/

section
variable {s : State}

/-- Setting the enable of a port sets one bit and keeps the others. -/
theorem setMidiEnable_getLsbD (w : Word) (p b : Nat) (hb : b < 32) :
    (ctlSet w (.ieMidi p) 1).getLsbD b = true ↔ w.getLsbD b = true ∨ b = 22 + p := by
  rw [ctlSet_ieMidi_getLsbD w p 1 b hb]
  by_cases own : b = 22 + p
  · simp [own]
  · simp [own]

theorem execMidiDone_down {p : BitVec 2} (down : s.devUp = false) : execMidiDone p s = neutral .none s := if_pos down

theorem execMidiDone_noPort {p : BitVec 2} (up : s.devUp = true) (noPort : s.conf.nMidi ≤ p.toNat) :
    execMidiDone p s = raise .inval s := by
  rw [execMidiDone, if_neg (by simp [up]), if_pos noPort]

theorem execMidiDone_idle {p : BitVec 2} (up : s.devUp = true) (port : p.toNat < s.conf.nMidi)
    (idle : midiPendingAt s.sch.midiPending p.toNat = false) : execMidiDone p s = answer .ok false .none s := by
  rw [execMidiDone, if_neg (by simp [up]), if_neg (by omega), if_pos idle]

/-- A port that is pending has its enable set and its mark cleared. -/
theorem execMidiDone_pending {p : BitVec 2} (up : s.devUp = true) (port : p.toNat < s.conf.nMidi)
    (pending : midiPendingAt s.sch.midiPending p.toNat = true) :
    execMidiDone p s = answer .ok true .none (setControl (ctlSet s.hw.ctl (.ieMidi p.toNat) 1)
      { s with sch := { s.sch with midiPending := setMidiPending s.sch.midiPending p.toNat false } }) := by
  rw [execMidiDone, if_neg (by simp [up]), if_neg (by omega), if_neg (by simp [pending])]
  rfl

end

/-- Settles O30: the cases of the rule one by one. -/
theorem midiDone : Obligations.MidiDone := by
  intro p s
  refine ⟨execMidiDone_down, fun up => ⟨execMidiDone_noPort up, execMidiDone_idle up, fun port pending =>
    ⟨_, _, fun b => setMidiEnable_getLsbD s.hw.ctl p.toNat b, fun q _ => ?_, execMidiDone_pending up port pending⟩⟩⟩
  rw [midiPendingAt_setMidiPending_false, and_comm]

/-- Settles O31: the operation by the device's state and the rate it holds. -/
theorem pollSet : Obligations.PollSet := fun r s =>
  ⟨fun down => if_pos down, fun up same => (if_neg (by simp [up])).trans (if_pos same), fun up other =>
    (if_neg (by simp [up])).trans (if_neg other)⟩

/-! #### `CTL.UPDATE` (R122) -/

/-- A mask keeps off the latency field when it keeps off each of its three bits (R61). -/
theorem and_latencyMask_eq_zero_iff (mask : Word) :
    mask &&& 0x0000000e#32 = 0 ↔ ¬(mask.getLsbD 1 = true ∨ mask.getLsbD 2 = true ∨ mask.getLsbD 3 = true) := by
  constructor
  · intro kept
    rw [latencyBit_of_mask kept 1 (by decide) (by decide), latencyBit_of_mask kept 2 (by decide) (by decide),
      latencyBit_of_mask kept 3 (by decide) (by decide)]
    decide
  · intro kept
    simp only [not_or, Bool.not_eq_true] at kept
    obtain ⟨h1, h2, h3⟩ := kept
    apply BitVec.eq_of_getLsbD_eq
    intro b hb
    have field : (0x0000000e#32).getLsbD b = decide (b = 1 ∨ b = 2 ∨ b = 3) := by interval_cases b <;> rfl
    rw [BitVec.getLsbD_and, field]
    by_cases inside : b = 1 ∨ b = 2 ∨ b = 3
    · rcases inside with rfl | rfl | rfl <;> simp only [h1, h2, h3] <;> rfl
    · simp [inside]

theorem touchesDraining_eq_true (s : State) (mask : Word) :
    touchesDraining s mask = true ↔
      ∃ p, p < s.conf.nMidi ∧ mask.getLsbD (22 + p) = true ∧ midiPendingAt s.sch.midiPending p = true := by
  simp [touchesDraining]

/-- The bits of a masked update: inside the mask those of the value, outside those that were there. -/
theorem getLsbD_masked_eq_ite (w mask value : Word) (b : Nat) :
    ((w &&& ~~~mask) ||| (value &&& mask)).getLsbD b = if mask.getLsbD b then value.getLsbD b else w.getLsbD b := by
  cases inside : mask.getLsbD b
  · simpa using getLsbD_masked w mask value b inside
  · simp [inside]

/-- A rate code is reserved when one of its two halves is 3 (R63). -/
theorem rateValid_rateCode_eq_false_iff (w : Word) :
    rateValid (rateCode w) = false ↔
      (w.getLsbD 6 = true ∧ w.getLsbD 7 = true) ∨ (w.getLsbD 8 = true ∧ w.getLsbD 9 = true) := by
  have halves : ∀ c : BitVec 4, rateValid c = false ↔
      (c.getLsbD 0 = true ∧ c.getLsbD 1 = true) ∨ (c.getLsbD 2 = true ∧ c.getLsbD 3 = true) := by decide
  have bits := halves (rateCode w)
  simp only [rateCode_getLsbD] at bits
  simpa using bits

section
variable {mask value : Word} {s : State}

theorem execCtlUpdate_down (down : s.devUp = false) : execCtlUpdate mask value s = neutral .none s := if_pos down

theorem execCtlUpdate_latency (up : s.devUp = true) (latency : mask &&& 0x0000000e#32 ≠ 0) :
    execCtlUpdate mask value s = raise .inval s := by
  rw [execCtlUpdate, if_neg (by simp [up]), if_pos latency]

theorem execCtlUpdate_draining (up : s.devUp = true) (draining : touchesDraining s mask = true) :
    execCtlUpdate mask value s = raise .inval s := by
  rw [execCtlUpdate, if_neg (by simp [up]), if_pos draining, ite_self]

/-- A mask that is not refused leads to the masked word, which is refused, held already, or written. -/
theorem execCtlUpdate_masked (up : s.devUp = true) (latencyKept : mask &&& 0x0000000e#32 = 0)
    (drainingKept : touchesDraining s mask = false) :
    let new := (s.hw.ctl &&& ~~~mask) ||| (value &&& mask)
    execCtlUpdate mask value s =
      if rateValid (rateCode new) = false then raise .inval s
      else if new = s.hw.ctl then answer .ok false .none s
      else answer .ok true .none (setControl new s) := by
  intro new
  rw [execCtlUpdate, if_neg (by simp [up]), if_neg (by simp [latencyKept]), if_neg (by simp [drainingKept])]
  rfl

end

/-- Settles O32: the masks it refuses, then the masked word by its bits and its three ends. -/
theorem ctlUpdate : Obligations.CtlUpdate := by
  intro mask value s latency draining
  refine ⟨execCtlUpdate_down, fun up => ⟨?_, fun latencyKept drainingKept => ?_⟩⟩
  · rintro (touched | touched)
    · exact execCtlUpdate_latency up fun kept => (and_latencyMask_eq_zero_iff mask).mp kept touched
    · exact execCtlUpdate_draining up ((touchesDraining_eq_true s mask).mpr touched)
  · have masked := execCtlUpdate_masked (value := value) up ((and_latencyMask_eq_zero_iff mask).mpr latencyKept)
      (Bool.not_eq_true _ ▸ mt (touchesDraining_eq_true s mask).mp drainingKept)
    simp only [rateValid_rateCode_eq_false_iff] at masked
    exact ⟨_, fun b _ => getLsbD_masked_eq_ite s.hw.ctl mask value b, fun reserved => masked.trans (if_pos reserved),
      fun valid held => masked.trans ((if_neg valid).trans (if_pos held)),
      fun valid other => masked.trans ((if_neg valid).trans (if_neg other))⟩

/-- Settles O33: one presence bit for each direction, and whether it was the other value. -/
theorem pcmAttach : Obligations.PcmAttach := by
  intro v s
  have changed (old : Bool) : (old != v) = decide (old ≠ v) := by cases old <;> cases v <;> rfl
  refine ⟨fun down d => if_pos down, fun up => ?_⟩
  rw [← changed, ← changed]
  exact ⟨if_neg (by simp [up]), if_neg (by simp [up])⟩

end Sys2Proof.Machine

/-! Time-code arithmetic (spec/42_ltc_arith.md R130 to R137): the labels of a day, their places in the day, the
increment as one place later, and the closed form of the addition. -/

namespace Sys2Proof.Machine

/-! ### The labels of a day (R130) -/

/-- A time of day whose seconds have `fps` frames each. -/
structure TimeOfDay (x : LtcFields) (fps : Nat) : Prop where
  hours : x.h < 24
  minutes : x.m < 60
  seconds : x.s < 60
  frames : x.f < fps

/-- A time of day that drop-frame counting, where it applies, does not skip. -/
structure IsLabel (x : LtcFields) (fps : Nat) (drop : Bool) : Prop extends TimeOfDay x fps where
  kept : drop = true → droppedLabel x = false

theorem droppedLabel_eq_false_iff (x : LtcFields) :
    droppedLabel x = false ↔ ¬(x.s = 0 ∧ x.f < 2 ∧ x.m % 10 ≠ 0) := by
  simp [droppedLabel]

theorem isLabel_of_ltcValid {c : Word} {fps : Nat} {drop : Bool} (valid : ltcValid c fps drop = true) :
    IsLabel (ltcFields c) fps drop := by
  obtain ⟨-, -, -, -, frames, seconds, minutes, hours, kept⟩ := (ltcValid_iff c fps drop).mp valid
  exact ⟨⟨hours, minutes, seconds, frames⟩, kept⟩

/-- A valid code is its label, packed, up to sync and reserved bits. -/
theorem ltcPack_ltcFields_of_ltcValid {c : Word} {fps : Nat} {drop : Bool} (valid : ltcValid c fps drop = true) :
    ltcPack (ltcFields c) = c &&& ltcClean := by
  obtain ⟨frames, seconds, minutes, hours, -⟩ := (ltcValid_iff c fps drop).mp valid
  exact ltcPack_ltcFields c frames seconds minutes hours

section
variable {x : LtcFields} {fps : Nat} {drop : Bool}

theorem TimeOfDay.ltcFields_ltcPack (h : TimeOfDay x fps) (rate : fps ≤ 30) : ltcFields (ltcPack x) = x :=
  Machine.ltcFields_ltcPack x h.hours h.minutes h.seconds (h.frames.trans_le rate)

theorem IsLabel.ltcValid_ltcPack (h : IsLabel x fps drop) (rate : fps ≤ 30) : ltcValid (ltcPack x) fps drop = true :=
  Machine.ltcValid_ltcPack x fps drop rate h.hours h.minutes h.seconds h.frames h.kept

end

/-- Masking with `LTC_DATA` keeps the digits and clears `DF` (R67). -/
theorem ltcFields_and_ltcData (c : Word) : ltcFields (c &&& ltcData) = { ltcFields c with df := false } := by
  have digits (lo len : Nat) (ones : ∀ b, b < len → ltcData.getLsbD (lo + b) = true) :
      bitField (c &&& ltcData) lo len = bitField c lo len := bitField_and c ltcData lo len ones
  simp only [ltcFields]
  rw [digits 0 4 (by decide), digits 4 2 (by decide), digits 8 4 (by decide), digits 12 3 (by decide),
    digits 16 4 (by decide), digits 20 3 (by decide), digits 24 4 (by decide), digits 28 2 (by decide)]
  simp [ltcData]

/-- Only the digit bits decide whether a code is valid. -/
theorem ltcValid_and_ltcData (c : Word) (fps : Nat) (drop : Bool) :
    ltcValid (c &&& ltcData) fps drop = ltcValid c fps drop := by
  have units (lo : Nat) (ones : ∀ b, b < 4 → ltcData.getLsbD (lo + b) = true) :
      bitField (c &&& ltcData) lo 4 = bitField c lo 4 := bitField_and c ltcData lo 4 ones
  rw [Bool.eq_iff_iff, ltcValid_iff, ltcValid_iff, ltcFields_and_ltcData, units 0 (by decide), units 8 (by decide),
    units 16 (by decide), units 24 (by decide)]
  rfl

/-- Settles O10: a valid code's digit bits are its label with `DF` clear; and such digit bits make any word valid. -/
theorem validCodesAreTimesOfDay : Obligations.ValidCodesAreTimesOfDay := by
  intro c fps drop rate
  constructor
  · intro valid
    obtain ⟨⟨hours, minutes, seconds, frames⟩, kept⟩ := isLabel_of_ltcValid valid
    refine ⟨_, _, _, _, hours, minutes, seconds, frames,
      fun dropped => (droppedLabel_eq_false_iff _).mp (kept dropped.1) dropped.2, ?_⟩
    have packed := ltcPack_ltcFields_of_ltcValid ((ltcValid_and_ltcData c fps drop).trans valid)
    rw [ltcFields_and_ltcData, BitVec.and_assoc, show ltcData &&& ltcClean = ltcData by decide] at packed
    exact packed.symm
  · rintro ⟨h, m, s, f, hours, minutes, seconds, frames, kept, packed⟩
    have label : IsLabel ⟨h, m, s, f, false⟩ fps drop :=
      ⟨⟨hours, minutes, seconds, frames⟩, fun d => (droppedLabel_eq_false_iff _).mpr fun skip => kept ⟨d, skip⟩⟩
    rw [← ltcValid_and_ltcData, packed]
    exact label.ltcValid_ltcPack rate

/-! ### The increment on fields (R131) -/

theorem carryFields_of_lt {x : LtcFields} {fps : Nat} (within : x.f + 1 < fps) :
    carryFields x fps = { x with f := x.f + 1 } := if_pos within

/-- After the last frame of a second comes frame 0 of the next one. -/
theorem carryFields_of_le {x : LtcFields} {fps : Nat} (last : fps ≤ x.f + 1) :
    carryFields x fps =
      if x.s + 1 < 60 then { x with f := 0, s := x.s + 1 }
      else if x.m + 1 < 60 then { x with f := 0, s := 0, m := x.m + 1 }
      else if x.h + 1 < 24 then { x with f := 0, s := 0, m := 0, h := x.h + 1 }
      else { x with f := 0, s := 0, m := 0, h := 0 } := if_neg (not_lt.mpr last)

theorem carryFields_f_of_le {x : LtcFields} {fps : Nat} (last : fps ≤ x.f + 1) : (carryFields x fps).f = 0 := by
  rw [carryFields_of_le last]
  split_ifs <;> rfl

@[simp] theorem carryFields_df (x : LtcFields) (fps : Nat) : (carryFields x fps).df = x.df := by
  unfold carryFields
  split_ifs <;> rfl

/-- The carry chain goes through the day without leaving it. -/
theorem TimeOfDay.carryFields {x : LtcFields} {fps : Nat} (h : TimeOfDay x fps) :
    TimeOfDay (carryFields x fps) fps := by
  obtain ⟨hours, minutes, seconds, frames⟩ := h
  unfold Machine.carryFields
  split_ifs <;> constructor <;> dsimp only <;> omega

/-- The increment is the carry chain, and frame 2 where that ends on frame 0 of a minute whose labels are dropped. -/
theorem incFields_eq_ite (x : LtcFields) (fps : Nat) (drop : Bool) :
    incFields x fps drop =
      if drop = true ∧ (carryFields x fps).f = 0 ∧ (carryFields x fps).s = 0 ∧ (carryFields x fps).m % 10 ≠ 0 then
        { carryFields x fps with f := 2 }
      else carryFields x fps := by
  simp [incFields, and_assoc]

@[simp] theorem incFields_df (x : LtcFields) (fps : Nat) (drop : Bool) : (incFields x fps drop).df = x.df := by
  rw [incFields_eq_ite]
  split_ifs <;> simp

theorem incFields_of_not_drop (x : LtcFields) (fps : Nat) : incFields x fps false = carryFields x fps := by
  simp [incFields_eq_ite]

theorem TimeOfDay.incFields {x : LtcFields} {fps : Nat} (h : TimeOfDay x fps) (rate : 2 < fps) (drop : Bool) :
    TimeOfDay (incFields x fps drop) fps := by
  obtain ⟨hours, minutes, seconds, frames⟩ := h.carryFields
  rw [incFields_eq_ite]
  split_ifs
  · exact ⟨hours, minutes, seconds, rate⟩
  · exact ⟨hours, minutes, seconds, frames⟩

/-- The label after a label is a label: frame 0 is passed over where it is dropped, and frame 1 comes only after a
frame 0 that was a label. -/
theorem IsLabel.incFields {x : LtcFields} {fps : Nat} {drop : Bool} (h : IsLabel x fps drop) (rate : 2 < fps) :
    IsLabel (incFields x fps drop) fps drop := by
  refine ⟨h.toTimeOfDay.incFields rate drop, fun d => ?_⟩
  rw [incFields_eq_ite]
  split_ifs with skip
  · simp [droppedLabel]
  · have before := (droppedLabel_eq_false_iff x).mp (h.kept d)
    rw [droppedLabel_eq_false_iff]
    rintro ⟨s0, f01, m10⟩
    have f1 : (carryFields x fps).f ≠ 0 := fun f0 => skip ⟨d, f0, s0, m10⟩
    have within : x.f + 1 < fps := not_le.mp fun last => f1 (carryFields_f_of_le last)
    rw [carryFields_of_lt within] at s0 f01 m10
    exact before ⟨s0, Nat.lt_of_succ_lt f01, m10⟩

/-! ### The place of a label in the day (R137) -/

/-- The second of the day, which the plain index counts in frames. -/
def secondOfDay (x : LtcFields) : Nat := (x.h * 60 + x.m) * 60 + x.s

theorem frameIndex_eq (x : LtcFields) (fps : Nat) : frameIndex x fps = secondOfDay x * fps + x.f := rfl

theorem TimeOfDay.secondOfDay_lt {x : LtcFields} {fps : Nat} (h : TimeOfDay x fps) : secondOfDay x < 86400 := by
  obtain ⟨hours, minutes, seconds, -⟩ := h
  unfold secondOfDay
  omega

theorem TimeOfDay.frameIndex_lt {x : LtcFields} {fps : Nat} (h : TimeOfDay x fps) : frameIndex x fps < 86400 * fps :=
  calc secondOfDay x * fps + x.f < secondOfDay x * fps + fps := Nat.add_lt_add_left h.frames _
    _ = (secondOfDay x + 1) * fps := (Nat.succ_mul _ _).symm
    _ ≤ 86400 * fps := Nat.mul_le_mul_right fps h.secondOfDay_lt

theorem TimeOfDay.secondOfDay_carryFields {x : LtcFields} {fps : Nat} (h : TimeOfDay x fps) (last : fps ≤ x.f + 1) :
    secondOfDay (Machine.carryFields x fps) = (secondOfDay x + 1) % 86400 := by
  obtain ⟨hours, minutes, seconds, -⟩ := h
  rw [carryFields_of_le last]
  unfold secondOfDay
  split_ifs <;> dsimp only <;> omega

/-- The carry chain is one place later, and after the last place of the day comes the first. -/
theorem TimeOfDay.frameIndex_carryFields {x : LtcFields} {fps : Nat} (h : TimeOfDay x fps) :
    frameIndex (Machine.carryFields x fps) fps = (frameIndex x fps + 1) % (86400 * fps) := by
  rcases Nat.lt_or_ge (x.f + 1) fps with within | last
  · have later : TimeOfDay { x with f := x.f + 1 } fps := ⟨h.hours, h.minutes, h.seconds, within⟩
    rw [carryFields_of_lt within]
    exact (Nat.mod_eq_of_lt later.frameIndex_lt).symm
  · have full : x.f + 1 = fps := Nat.le_antisymm h.frames last
    calc frameIndex (Machine.carryFields x fps) fps
        = (secondOfDay x + 1) % 86400 * fps := by
          rw [frameIndex_eq, h.secondOfDay_carryFields last, carryFields_f_of_le last, Nat.add_zero]
      _ = (secondOfDay x * fps + fps) % (86400 * fps) := by rw [← Nat.mul_mod_mul_right, Nat.succ_mul]
      _ = (frameIndex x fps + 1) % (86400 * fps) := by rw [frameIndex_eq, Nat.add_assoc, full]

/-- The drop-frame index by hours of 107892 labels and minutes of 1798, with 2 labels more for each tenth minute. -/
theorem dropIndex_eq (x : LtcFields) :
    dropIndex x = 107892 * x.h + 1798 * x.m + 2 * (x.m / 10) + 30 * x.s + x.f := by
  simp only [dropIndex]
  omega

theorem TimeOfDay.dropIndex_lt {x : LtcFields} (h : TimeOfDay x 30) : dropIndex x < 2589408 := by
  obtain ⟨hours, minutes, seconds, frames⟩ := h
  rw [dropIndex_eq]
  omega

/-- With drop-frame counting the increment is one place later by the drop-frame index: within a minute and into a
tenth minute by the carry chain alone, and into any other minute by the skip. -/
theorem TimeOfDay.dropIndex_incFields {x : LtcFields} (h : TimeOfDay x 30) :
    dropIndex (Machine.incFields x 30 true) = (dropIndex x + 1) % 2589408 := by
  have later : dropIndex (Machine.incFields x 30 true) = dropIndex x + 1 ∨
      dropIndex (Machine.incFields x 30 true) = 0 ∧ dropIndex x + 1 = 2589408 := by
    rw [incFields_eq_ite]
    rcases Nat.lt_or_ge (x.f + 1) 30 with within | last
    · rw [carryFields_of_lt within, if_neg fun skip => Nat.succ_ne_zero _ skip.2.1, dropIndex_eq, dropIndex_eq]
      exact .inl rfl
    · obtain ⟨hours, minutes, seconds, frames⟩ := h
      rw [carryFields_of_le last]
      split_ifs <;> simp only [dropIndex_eq, true_and, false_and] at * <;> omega
  have bound := (h.incFields (by decide) true).dropIndex_lt
  rcases later with next | ⟨first, last⟩
  · rw [next, Nat.mod_eq_of_lt (next ▸ bound)]
  · rw [first, last, Nat.mod_self]

/-! ### The increment on words (R131, R132) -/

theorem ltcInc_eq (c : Word) (fps : Nat) (drop : Bool) :
    ltcInc c fps drop = ltcPack (incFields (ltcFields c) fps drop) := by
  rw [ltcInc, ltcFields_clean]

theorem TimeOfDay.ltcInc_ltcPack {x : LtcFields} {fps : Nat} (h : TimeOfDay x fps) (rate : fps ≤ 30) (drop : Bool) :
    ltcInc (ltcPack x) fps drop = ltcPack (Machine.incFields x fps drop) := by
  rw [ltcInc_eq, h.ltcFields_ltcPack rate]

/-- Settles O34: the increment of a valid code packs the label after its label, which stands one place later. -/
theorem ltcIncIsOneFrameLater : Obligations.LtcIncIsOneFrameLater := by
  refine ⟨fun c fps drop rate valid => ?_, fun c fps drop => ltcPack_clean _⟩
  have label := isLabel_of_ltcValid valid
  have later := label.incFields (by omega)
  have read := later.toTimeOfDay.ltcFields_ltcPack (by omega)
  rw [ltcInc_eq, read, ltcFields_clean]
  refine ⟨later.ltcValid_ltcPack (by omega), ?_, ?_, ?_⟩
  · exact (congrArg LtcFields.df read).trans (incFields_df _ _ _)
  · rintro rfl
    rw [incFields_of_not_drop]
    exact label.toTimeOfDay.frameIndex_carryFields
  · rintro rfl rfl
    exact label.toTimeOfDay.dropIndex_incFields

/-- The carry chain after the last label of a minute, the day wrapping at 24 hours. -/
theorem carryFields_last_of_minute (h m : Nat) (df : Bool) (hours : h < 24) (minutes : m < 60) :
    carryFields ⟨h, m, 59, 29, df⟩ 30 = ⟨if m = 59 then (h + 1) % 24 else h, (m + 1) % 60, 0, 0, df⟩ := by
  rw [carryFields_of_le (Nat.le_refl 30)]
  simp only [Nat.reduceAdd, Nat.reduceLT, if_false]
  split_ifs <;> simp only [LtcFields.mk.injEq, and_true, true_and] <;> omega

/-- Settles O35: the carry chain ends on frame 0 of the next minute, and the skip asks only for that minute. -/
theorem dropFrameSkip : Obligations.DropFrameSkip := by
  intro h m df hours minutes
  have last : TimeOfDay ⟨h, m, 59, 29, df⟩ 30 := ⟨hours, minutes, Nat.lt_succ_self 59, Nat.lt_succ_self 29⟩
  rw [last.ltcInc_ltcPack le_rfl, last.ltcInc_ltcPack le_rfl, incFields_of_not_drop, incFields_eq_ite,
    carryFields_last_of_minute h m df hours minutes]
  refine ⟨congrArg ltcPack ?_, rfl⟩
  by_cases tenth : (m + 1) % 60 % 10 = 0
  · rw [if_pos tenth, if_neg fun skip => skip.2.2.2 tenth]
  · rw [if_neg tenth, if_pos ⟨rfl, rfl, rfl, tenth⟩]

/-! ### The closed form of the addition (R136, R137) -/

/-- The time of day at a place of the day, by the plain index. -/
def labelAt (k fps : Nat) (df : Bool) : LtcFields := ⟨k / (fps * 3600), k / (fps * 60) % 60, k / fps % 60, k % fps, df⟩

/-- The plain index of the label at a drop-frame place: 18 labels are dropped in each full ten minutes, 2 in each full
minute after the first of the ten. -/
def plainOfDrop (k : Nat) : Nat :=
  k + 18 * (k / 17982) + (if 2 ≤ k % 17982 then 2 * ((k % 17982 - 2) / 1798) else 0)

/-- The place of a label among the labels of the day. -/
def labelIndex (x : LtcFields) (fps : Nat) (drop : Bool) : Nat := if drop then dropIndex x else frameIndex x fps

/-- How many labels the day has. -/
def labelsPerDay (fps : Nat) (drop : Bool) : Nat := if drop then 2589408 else 86400 * fps

theorem ltcAddClosed_false (c : Word) (n fps : Nat) :
    ltcAddClosed c n fps false =
      ltcPack (labelAt ((labelIndex (ltcFields c) fps false + n) % labelsPerDay fps false) fps (ltcFields c).df) := by
  rw [← ltcFields_clean c]
  rfl

theorem ltcAddClosed_true (c : Word) (n : Nat) :
    ltcAddClosed c n 30 true =
      ltcPack (labelAt (plainOfDrop ((labelIndex (ltcFields c) 30 true + n) % labelsPerDay 30 true)) 30
        (ltcFields c).df) := by
  rw [← ltcFields_clean c]
  rfl

theorem TimeOfDay.labelAt_frameIndex {x : LtcFields} {fps : Nat} (h : TimeOfDay x fps) :
    labelAt (frameIndex x fps) fps x.df = x := by
  obtain ⟨-, minutes, seconds, frames⟩ := h
  have second : frameIndex x fps / fps = secondOfDay x := by
    rw [frameIndex_eq, Nat.mul_comm, Nat.mul_add_div (by omega), Nat.div_eq_of_lt frames, Nat.add_zero]
  have frame : frameIndex x fps % fps = x.f := by
    rw [frameIndex_eq, Nat.mul_add_mod', Nat.mod_eq_of_lt frames]
  obtain ⟨h, m, s, f, df⟩ := x
  simp only [labelAt, ← Nat.div_div_eq_div_mul, second, frame, secondOfDay, LtcFields.mk.injEq, and_true]
    at minutes seconds ⊢
  omega

/-- The drop-frame place of a label in full tens of minutes, full minutes after those, and frames after those; past the
first minute of the ten the first two frames are no labels. -/
theorem IsLabel.plainOfDrop_dropIndex {x : LtcFields} (h : IsLabel x 30 true) :
    plainOfDrop (dropIndex x) = frameIndex x 30 := by
  have kept := (droppedLabel_eq_false_iff x).mp (h.kept rfl)
  obtain ⟨⟨-, minutes, seconds, frames⟩, -⟩ := h
  obtain ⟨rest, hrest⟩ : ∃ rest, rest = 1798 * (x.m % 10) + (30 * x.s + x.f) := ⟨_, rfl⟩
  have place : dropIndex x = 17982 * (6 * x.h + x.m / 10) + rest := by rw [dropIndex_eq]; omega
  have full : dropIndex x / 17982 = 6 * x.h + x.m / 10 := by omega
  have remainder : dropIndex x % 17982 = rest := by omega
  have minute : (if 2 ≤ rest then 2 * ((rest - 2) / 1798) else 0) = 2 * (x.m % 10) := by split_ifs <;> omega
  rw [plainOfDrop, full, remainder, minute, place, frameIndex]
  omega

section
variable {x : LtcFields} {fps : Nat} {drop : Bool}

theorem IsLabel.labelIndex_lt (h : IsLabel x fps drop) (dropRate : drop = true → fps = 30) :
    labelIndex x fps drop < labelsPerDay fps drop := by
  cases drop with
  | false => exact h.toTimeOfDay.frameIndex_lt
  | true =>
    obtain rfl := dropRate rfl
    exact h.toTimeOfDay.dropIndex_lt

theorem IsLabel.labelIndex_incFields (h : IsLabel x fps drop) (dropRate : drop = true → fps = 30) :
    labelIndex (Machine.incFields x fps drop) fps drop = (labelIndex x fps drop + 1) % labelsPerDay fps drop := by
  cases drop with
  | false =>
    rw [incFields_of_not_drop]
    exact h.toTimeOfDay.frameIndex_carryFields
  | true =>
    obtain rfl := dropRate rfl
    exact h.toTimeOfDay.dropIndex_incFields

end

/-- Each iteration moves a packed label one place on through the day. -/
theorem ltcAdd_eq_ltcPack {c : Word} {fps : Nat} {drop : Bool} (rate : 2 < fps) (packs : fps ≤ 30)
    (dropRate : drop = true → fps = 30) (valid : ltcValid c fps drop = true) (n : Nat) :
    ∃ y, IsLabel y fps drop ∧ y.df = (ltcFields c).df ∧
      labelIndex y fps drop = (labelIndex (ltcFields c) fps drop + n) % labelsPerDay fps drop ∧
      ltcAdd c n fps drop = ltcPack y := by
  induction n with
  | zero =>
    have label := isLabel_of_ltcValid valid
    exact ⟨ltcFields c, label, rfl, (Nat.mod_eq_of_lt (label.labelIndex_lt dropRate)).symm,
      (ltcPack_ltcFields_of_ltcValid valid).symm⟩
  | succ k ih =>
    obtain ⟨y, label, df, place, packed⟩ := ih
    refine ⟨incFields y fps drop, label.incFields rate, (incFields_df y fps drop).trans df, ?_, ?_⟩
    · rw [label.labelIndex_incFields dropRate, place, Nat.mod_add_mod, Nat.add_assoc]
    · rw [ltcAdd, packed, label.toTimeOfDay.ltcInc_ltcPack packs]

/-- The addition is the iteration of R136 by definition, on every word. -/
theorem ltcAdd_eq_iterate (c : Word) (n fps : Nat) (drop : Bool) :
    ltcAdd c n fps drop = (fun x => ltcInc x fps drop)^[n] (c &&& ltcClean) := by
  induction n with
  | zero => rfl
  | succ k ih => rw [ltcAdd, ih, Function.iterate_succ_apply']

/-- Settles O36: the iteration ends on the label at the place the closed form computes, and a label is found again
from its place. -/
theorem closedFormAgrees : Obligations.ClosedFormAgrees := by
  refine ⟨fun c n fps drop rate dropRate valid => ?_, ltcAdd_eq_iterate⟩
  obtain ⟨y, label, df, place, packed⟩ := ltcAdd_eq_ltcPack (by omega) (by omega) dropRate valid n
  rw [packed]
  cases drop with
  | false =>
    rw [ltcAddClosed_false, ← place, ← df]
    exact congrArg ltcPack label.toTimeOfDay.labelAt_frameIndex
  | true =>
    obtain rfl := dropRate rfl
    rw [ltcAddClosed_true, ← place, ← df]
    have found : plainOfDrop (labelIndex y 30 true) = frameIndex y 30 := label.plainOfDrop_dropIndex
    rw [found, label.toTimeOfDay.labelAt_frameIndex]

/-! ### Frame durations (R73, R134) -/

/-- Settles O37: both tables, entry by entry. -/
theorem frameDurations : Obligations.FrameDurations := ⟨rfl, by decide⟩

end Sys2Proof.Machine

/-! The LTC decoder (spec/43_ltc_decoder.md R145 to R150, R182) and the drift estimator that its messages feed
(spec/45_drift_estimator.md R187 to R190): each class of message as one update of the state, and the hook with a rate
code that `sys_rate()` has no answer for. -/

namespace Sys2Proof.Machine

/-! ### The drift estimator (R187, R188, R190) -/

/-- `PULL.UPDATE` in one case split: nothing to estimate from or nothing new, else the factor is stored and notified. -/
theorem pullUpdate_eq_ite (s : State) :
    let est := BitVec.ofNat 32 (pullEstimate s.rt.ringCnt s.rt.ringSum.toNat s.cfg.fpsCode)
    pullUpdate s = if s.rt.ringSum = 0 ∨ est = s.rt.pullFactor then s
      else emit (.notifyPull est) { s with rt := { s.rt with pullFactor := est } } := by
  intro est
  unfold pullUpdate
  by_cases empty : s.rt.ringSum = 0
  · rw [if_pos empty, if_pos (.inl empty)]
  · simp only [empty, if_false, false_or]
    rfl

/-- The push with its two cases drawn into the fields they decide: a full ring loses the duration in the slot reused. -/
theorem ringPush_eq (n : Nat) (rt : TcoRuntime) (d : U64) :
    ringPush n rt d = { rt with
      ringCnt := if rt.ringCnt = n then n else rt.ringCnt + 1
      ring := rt.ring.set rt.ringPos d
      ringSum := rt.ringSum - (if rt.ringCnt = n then (rt.ring[rt.ringPos]?).getD 0 else 0) + d
      ringPos := (rt.ringPos + 1) % n } := by
  by_cases full : rt.ringCnt = n <;> simp [ringPush, full]

theorem driftPush_first {ts : U64} {s : State} (first : s.rt.lastMsgValid = false) :
    driftPush ts s = { s with rt := { s.rt with lastMsgNs := ts, lastMsgValid := true } } := if_pos first

theorem driftPush_further {ts : U64} {s : State} (further : s.rt.lastMsgValid = true) :
    driftPush ts s =
      pullUpdate { s with rt := ringPush s.conf.driftN { s.rt with lastMsgNs := ts } (ts - s.rt.lastMsgNs) } :=
  if_neg (by simp [further])

/-! ### `MTC.MSG` (R145, R146) -/

section
variable {ts : U64} {len : BitVec 4} {b : BitVec 80} {s : State}

theorem execMtcMsg_malformed (ready : tcoUnavailable s = false) (malformed : msgClass len b = .malformed) :
    execMtcMsg ts len b s = answer .ok false .none s := by
  simp [execMtcMsg, ready, malformed]

theorem execMtcMsg_marks (ready : tcoUnavailable s = false) (wellFormed : msgClass len b ≠ .malformed)
    (plain : qualifies (msgClass len b) = false) :
    execMtcMsg ts len b s = answer .ok false .none { s with rt := { s.rt with ltcChanged := true } } := by
  simp [execMtcMsg, ready, wellFormed, plain]

/-- No malformed message qualifies (R74), so a qualifying one is pushed. -/
theorem execMtcMsg_pushes (ready : tcoUnavailable s = false) (timed : qualifies (msgClass len b) = true) :
    execMtcMsg ts len b s =
      answer .ok false .none (driftPush ts { s with rt := { s.rt with ltcChanged := true } }) := by
  have wellFormed : msgClass len b ≠ .malformed := fun malformed => by simp [malformed, qualifies] at timed
  simp [execMtcMsg, ready, wellFormed, timed]

end

/-- Settles O38: one lemma for each class of message; the first qualifying one meets an estimator without a stamp. -/
theorem mtcMsgSetsChanged : Obligations.MtcMsgSetsChanged := by
  intro ts len b s up present
  have ready : tcoUnavailable s = false := (tcoUnavailable_eq_false s).mpr ⟨up, present⟩
  refine ⟨execMtcMsg_malformed ready, execMtcMsg_marks ready, fun timed first => ?_⟩
  refine (execMtcMsg_pushes ready timed).trans ?_
  rw [driftPush_first (s := { s with rt := { s.rt with ltcChanged := true } }) first]
  rfl

/-- Settles O39: the push is one update of the ring, and `PULL.UPDATE` on what it leaves decides the rest. -/
theorem qualifyingMessagePushesDuration : Obligations.QualifyingMessagePushesDuration := by
  intro ts len b s up present timed further d oldest cnt sum est rt
  have ready : tcoUnavailable s = false := (tcoUnavailable_eq_false s).mpr ⟨up, present⟩
  have pushed : driftPush ts { s with rt := { s.rt with ltcChanged := true } } = pullUpdate { s with rt := rt } := by
    rw [driftPush_further (s := { s with rt := { s.rt with ltcChanged := true } }) further, ringPush_eq]
  have updated : pullUpdate { s with rt := rt } =
      if sum = 0 ∨ est = s.rt.pullFactor then { s with rt := rt }
      else emit (.notifyPull est) { s with rt := { rt with pullFactor := est } } :=
    pullUpdate_eq_ite { s with rt := rt }
  refine (execMtcMsg_pushes ready timed).trans ?_
  rw [pushed, updated]
  split <;> rfl

/-! ### The hook without a rate (R148, R182, 60_exceptions R235) -/

theorem sysRate_eq_none_iff (conf : Config) (ctl : Word) : sysRate conf ctl = none ↔ ¬∃ r, RateIs conf ctl r := by
  simp only [Option.eq_none_iff_forall_ne_some, ne_eq, sysRate_eq_some_iff, not_exists]

theorem inboundDecode_rateless {s : State} (rateless : sysRate s.conf s.hw.ctl = none) :
    inboundDecode s = emit .faultAssert s := by
  simp only [inboundDecode, rateless]

theorem schedule_rateless {s : State} (rateless : sysRate s.conf s.hw.ctl = none) :
    schedule s = emit .faultAssert s := by
  simp only [schedule, rateless]

/-- The set flag is bit 16 of `TCO_CTL` and no other (R70). -/
theorem tcoCtlWord_disarmed (cfg : TcoConfig) (rt : TcoRuntime) :
    tcoCtlWord cfg { rt with outArmed := false } = tcoCtlWord cfg rt &&& ~~~0x00010000#32 := by
  apply BitVec.eq_of_getLsbD_eq
  intro b hb
  rw [BitVec.getLsbD_and, tcoCtlWord_getLsbD _ _ _ hb, tcoCtlWord_getLsbD _ _ _ hb]
  interval_cases b <;> simp

/-- `LATCH_CLEAR` as one update: the set flag is clear afterwards, and the word is repeated without it if it was set
(44_ltc_encoder R177). -/
theorem latchClear_eq (s : State) :
    latchClear s = { s with
      rt := { s.rt with outArmed := false }
      events := s.events ++
        if s.rt.outArmed then [.regwrite .tcoCtl (tcoCtlWord s.cfg s.rt &&& ~~~0x00010000#32)] else [] } := by
  rcases latchClear_cases s with ⟨idle, same⟩ | ⟨armed, cleared⟩
  · have rt : s.rt = { s.rt with outArmed := false } := by rw [← idle]
    rw [same, idle, ← rt, if_neg Bool.false_ne_true, List.append_nil]
  · rw [cleared, armed, if_pos rfl, tcoCtlWord_disarmed]

/-- Settles O49: clearing keeps the control word, so each of the two steps behind it meets the same missing rate, and
what it leaves behind is its `fault(ASSERT)`. -/
theorem assertionAbandonsOnlyItsStep : Obligations.AssertionAbandonsOnlyItsStep := by
  intro s present noRate
  have rateless : sysRate s.conf s.hw.ctl = none := (sysRate_eq_none_iff _ _).mpr noRate
  have cleared : sysRate (latchClear s).conf (latchClear s).hw.ctl = none := by
    rw [(latchClear_hook s).conf, (latchClear_hook s).hw, rateless]
  have decoded : inboundStep (latchClear s) = { latchClear s with
      events := (latchClear s).events ++ if s.rt.ltcChanged then [.faultAssert] else [] } := by
    rw [inboundStep_latchClear, inboundDecode_rateless cleared]
    cases s.rt.ltcChanged
    · simp
    · rfl
  have scheduled : schedule (inboundStep (latchClear s)) = emit .faultAssert (inboundStep (latchClear s)) :=
    schedule_rateless (by rw [decoded]; exact cleared)
  rw [tcoElapsed_present s present, scheduled, decoded, latchClear_eq]
  split
  · simp
  · rfl

end Sys2Proof.Machine

/-! The LTC encoder (spec/44_ltc_encoder.md R160 to R181): the requests and their cancellation, the target of a request
and its plan, the scheduling step in numbers, and the phases of the output. -/

namespace Sys2Proof.Machine

/-! ### Output requests (R160 to R163) -/

section
variable {c : Word} {target : U64} {s : State}

theorem execLtcStart_invalid (ready : tcoUnavailable s = false) (invalid : codeAccepted c s = false) :
    execLtcStart c target s = raise .inval s := by
  rw [execLtcStart, if_neg (by simp [ready]), if_pos invalid]

theorem execLtcStart_accepted (ready : tcoUnavailable s = false) (valid : codeAccepted c s = true) :
    execLtcStart c target s = answer .ok false .none (setPending .literal (c &&& ltcClean) target s) := by
  rw [execLtcStart, if_neg (by simp [ready]), if_neg (by simp [valid])]

theorem execLtcStartNow_invalid (ready : tcoUnavailable s = false) (invalid : codeAccepted c s = false) :
    execLtcStartNow c s = raise .inval s := by
  rw [execLtcStartNow, if_neg (by simp [ready]), if_pos invalid]

theorem execLtcStartNow_accepted (ready : tcoUnavailable s = false) (valid : codeAccepted c s = true) :
    execLtcStartNow c s = answer .ok false .none (setPending .now (c &&& ltcClean) 0 s) := by
  rw [execLtcStartNow, if_neg (by simp [ready]), if_neg (by simp [valid])]

theorem execLtcStartWall_ready (ready : tcoUnavailable s = false) :
    execLtcStartWall target s = answer .ok false .none (setPending .wall 0 target s) := by
  rw [execLtcStartWall, if_neg (by simp [ready])]

end

/-- Settles O42: each request by what it finds, the module away, an invalid code, or neither. -/
theorem outputRequestsOnlyStore : Obligations.OutputRequestsOnlyStore := by
  intro c target offset s
  refine ⟨fun away i hi => ?_, fun up present => ?_⟩
  · have away : tcoUnavailable s = true := (tcoUnavailable_eq_true s).mpr away
    fin_cases hi <;> exact if_pos away
  · have ready : tcoUnavailable s = false := (tcoUnavailable_eq_false s).mpr ⟨up, present⟩
    refine ⟨fun invalid i hi => ?_, execLtcStart_accepted ready, execLtcStartNow_accepted ready,
      execLtcStartWall_ready ready⟩
    fin_cases hi
    · exact execLtcStart_invalid ready invalid
    · exact execLtcStartNow_invalid ready invalid

/-! ### Clearing the set flag and stopping (R177, R178) -/

/-- Settles O44: the set flag is bit 16 of the word. -/
theorem latchClear_dropsSetFlag : Obligations.LatchClear := by
  intro s
  rw [latchClear_eq]
  refine ⟨fun idle => ?_, fun armed => by rw [armed, if_pos rfl]⟩
  have rt : { s.rt with outArmed := false } = s.rt := by rw [← idle]
  rw [rt, idle, if_neg Bool.false_ne_true, List.append_nil]

/-- The set flag and the run flag are bits 16 and 17 of `TCO_CTL` (R70). -/
theorem tcoCtlWord_stopped (cfg : TcoConfig) (rt : TcoRuntime) :
    tcoCtlWord { cfg with run := false } { rt with outArmed := false } = tcoCtlWord cfg rt &&& ~~~0x00030000#32 := by
  apply BitVec.eq_of_getLsbD_eq
  intro b hb
  rw [BitVec.getLsbD_and, tcoCtlWord_getLsbD _ _ _ hb, tcoCtlWord_getLsbD _ _ _ hb]
  interval_cases b <;> simp

theorem execLtcStop_idle {s : State} (ready : tcoUnavailable s = false) (idle : s.cfg.run = false) :
    execLtcStop s = answer .ok false .none (clearPending s) := by
  rw [execLtcStop, if_neg (by simp [ready]), if_neg (by simp [idle])]

theorem execLtcStop_running {s : State} (ready : tcoUnavailable s = false) (running : s.cfg.run = true) :
    execLtcStop s = answer .ok false .none (stopOutput (clearPending s)) := by
  rw [execLtcStop, if_neg (by simp [ready]), if_pos running]

/-- Settles O43: the pending slot is no part of the word that stopping writes. -/
theorem ltcStop : Obligations.LtcStop := by
  intro s
  refine ⟨fun away => if_pos ((tcoUnavailable_eq_true s).mpr away), fun up present => ?_⟩
  have ready : tcoUnavailable s = false := (tcoUnavailable_eq_false s).mpr ⟨up, present⟩
  refine ⟨execLtcStop_idle ready, fun running => (execLtcStop_running ready running).trans ?_⟩
  rw [stopOutput_eq, tcoCtlWord_stopped]
  rfl

/-! ### The plan of a target (R168, R171, R172) -/

/-- `ceil_div` is the least number of divisors that reaches the dividend. -/
theorem ceilDiv_mul_bounds (a : Int) {b : Int} (pos : 0 < b) : a ≤ ceilDiv a b * b ∧ ceilDiv a b * b < a + b := by
  have division := Int.mul_ediv_add_emod (a + b - 1) b
  have low := Int.emod_nonneg (a + b - 1) pos.ne'
  have high := Int.emod_lt_of_pos (a + b - 1) pos
  rw [ceilDiv, mul_comm]
  omega

theorem ceilDiv_pos {a b : Int} (apos : 0 < a) (pos : 0 < b) : 1 ≤ ceilDiv a b :=
  Int.le_ediv_of_mul_le pos (by omega)

section
variable {t : Target} {floor fs : Int} {fps : Nat} {drop : Bool}

/-- An early target moves up by the least number of frames that reaches the floor, and its code with it. -/
theorem planFrom_early (pos : 0 < fs) (early : t.start < floor) :
    ∃ n : Nat, 1 ≤ n ∧ planFrom t floor fs fps drop = ⟨ltcAdd t.code n fps drop, t.start + n * fs, n⟩ ∧
      floor ≤ t.start + n * fs ∧ t.start + n * fs < floor + fs := by
  obtain ⟨n, hn⟩ := Int.eq_ofNat_of_zero_le (zero_le_one.trans (ceilDiv_pos (sub_pos.mpr early) pos))
  have least := ceilDiv_pos (sub_pos.mpr early) pos
  have bounds := ceilDiv_mul_bounds (floor - t.start) pos
  rw [hn] at least bounds
  refine ⟨n, by omega, ?_, by omega, by omega⟩
  rw [planFrom, if_pos early, hn]
  rfl

theorem planFrom_inTime (reached : floor ≤ t.start) (near : t.start ≤ floor + fs) :
    planFrom t floor fs fps drop = ⟨t.code, t.start, 0⟩ := by
  rw [planFrom, if_neg (by omega), if_neg (by omega)]

theorem planFrom_late (pos : 0 < fs) (late : floor + fs < t.start) :
    planFrom t floor fs fps drop = ⟨t.code, t.start, -((t.start - floor) / fs)⟩ := by
  rw [planFrom, if_neg (by omega), if_pos late]

end

/-- Settles O46: the three ranges of the target. -/
theorem planRespectsTheFloor : Obligations.PlanRespectsTheFloor := by
  intro t floor fs fps drop pos p
  rcases lt_or_ge t.start floor with early | reached
  · obtain ⟨n, one, plan, above, below⟩ := planFrom_early (fps := fps) (drop := drop) pos early
    simp only [p, plan]
    exact ⟨above, fun _ => ⟨n, one, rfl, rfl, by omega, rfl⟩, fun reached => absurd early (by omega)⟩
  rcases le_or_gt t.start (floor + fs) with near | late
  · simp only [p, planFrom_inTime reached near]
    exact ⟨reached, fun early => absurd early (by omega), fun _ =>
      ⟨trivial, trivial, fun _ => trivial, fun late => absurd late (by omega)⟩⟩
  · have whole : 1 ≤ (t.start - floor) / fs := Int.le_ediv_of_mul_le pos (by omega)
    have below := Int.ediv_mul_le (t.start - floor) pos.ne'
    have above := Int.lt_ediv_add_one_mul_self (t.start - floor) pos
    simp only [p, planFrom_late pos late, neg_neg, sub_neg_eq_add, add_comm (1 : Int)]
    exact ⟨reached, fun early => absurd early (by omega), fun _ =>
      ⟨trivial, trivial, fun near => absurd near (by omega), fun _ => ⟨by omega, below, above⟩⟩⟩

/-! ### The wall-clock target (R138, R167) -/

/-- A higher frame rate has all the codes of a lower one. -/
theorem ltcValid_mono {c : Word} {fps fps' : Nat} {drop : Bool} (le : fps ≤ fps')
    (valid : ltcValid c fps drop = true) : ltcValid c fps' drop = true := by
  rw [ltcValid_iff] at valid ⊢
  obtain ⟨d0, d1, d2, d3, frames, rest⟩ := valid
  exact ⟨d0, d1, d2, d3, frames.trans_le le, rest⟩

/-- The first label of a second of the day is frame 0, or 2 where drop-frame counting has no frames 0 and 1. -/
theorem isLabel_first {tod : Nat} (day : tod < 86400) (drop : Bool) :
    IsLabel ⟨tod / 3600, tod / 60 % 60, tod % 60,
      if drop = true ∧ tod % 60 = 0 ∧ tod / 60 % 10 ≠ 0 then 2 else 0, false⟩ 3 drop := by
  refine ⟨⟨?_, ?_, ?_, ?_⟩, fun counted => (droppedLabel_eq_false_iff _).mpr ?_⟩
  · dsimp only; omega
  · dsimp only; omega
  · dsimp only; omega
  · dsimp only; split <;> omega
  · dsimp only
    rintro ⟨second, frame, minute⟩
    rw [if_pos ⟨counted, second, by omega⟩] at frame
    omega

theorem wallTarget_code (w : WallTime) (offset : U64) (fn : Int) (sr1 : Nat) (drop : Bool) {tod : Nat}
    (time : tod = ((w.sec + offset.toInt) % 86400).toNat) :
    (wallTarget w offset fn sr1 drop).code = ltcPack ⟨tod / 3600, tod / 60 % 60, tod % 60,
      if drop = true ∧ tod % 60 = 0 ∧ tod / 60 % 10 ≠ 0 then 2 else 0, false⟩ := by
  have minute : tod / 60 % 60 % 10 = tod / 60 % 10 := by omega
  simp only [wallTarget, hmsOf, ← time, minute, Bool.and_eq_true, beq_iff_eq, bne_iff_ne, and_assoc]

/-- Settles O47: the remainder by a day is the time of day, and its first label is valid at any rate of at least
three frames. -/
theorem wallTargetIsTimeOfDay : Obligations.WallTargetIsTimeOfDay := by
  intro w offset fn sr1 fps drop rate
  obtain ⟨tod, time⟩ : ∃ tod : Nat, tod = ((w.sec + offset.toInt) % 86400).toNat := ⟨_, rfl⟩
  have day : tod < 86400 := by omega
  have code := wallTarget_code w offset fn sr1 drop time
  refine ⟨tod, day, by omega, code, ?_, rfl⟩
  rw [code]
  exact ltcValid_mono rate ((isLabel_first day drop).ltcValid_ltcPack (by decide))

/-! ### `SCHEDULE` in numbers (R165 to R176) -/

/-- A frame-rate code in numbers (R73). -/
theorem fpsOf_eq (f : BitVec 2) :
    fpsOf f = ⟨if f.toNat = 0 then 24 else if f.toNat = 1 then 25 else 30, decide (f.toNat = 2),
      if f.toNat = 2 then 999 else 1000⟩ := by
  revert f
  decide

theorem calibAt_eq_some_iff (conf : Config) (f : BitVec 2) (m : Nat) (cal : Int) :
    calibAt conf f m = some cal ↔ CalibIs conf f m cal := by
  unfold calibAt CalibIs
  cases conf.calib[f.toNat]? <;> simp

theorem wallAnswer_of_cons {s : State} {w : WallTime} {later : List WallTime} (queued : s.env.wall = w :: later) :
    wallAnswer s = w ∧ afterWall s = { s with env := { s.env with wall := later } } := by
  simp [wallAnswer, afterWall, nextOr, drawsAfter, queued]

theorem resolveTarget_eq (s : State) (r : SysRate) (drop : Bool) (fn : Int) :
    resolveTarget s r drop fn =
      if s.rt.pendKind = .wall then wallTarget (wallAnswer s) s.rt.pendTarget fn r.sr1 drop
      else if s.rt.pendKind = .now then ⟨s.rt.pendCode, fn⟩
      else ⟨s.rt.pendCode, (s.rt.pendTarget.toNat / r.sf : Nat)⟩ := by
  unfold resolveTarget
  cases s.rt.pendKind <;> rfl

theorem afterResolve_env (s : State) :
    (afterResolve s).env = if s.rt.pendKind = .wall then (afterWall s).env else s.env := by
  unfold afterResolve
  split <;> rfl

theorem schedule_of_inputs {s : State} {r : SysRate} {cal : Int} (rate : RateIs s.conf s.hw.ctl r)
    (entry : CalibIs s.conf s.cfg.fpsCode r.mode cal) : schedule s = scheduleWith s r cal := by
  simp only [schedule, (sysRate_eq_some_iff _ _ _).mpr rate, (calibAt_eq_some_iff _ _ _ _).mpr entry]

/-- The digits of the code written are those of the plan (R175). -/
theorem outCode_digits (c : Word) (drop : Bool) : ((c &&& ltcData) ||| flagAt drop 6) &&& ltcData = c &&& ltcData := by
  have apart : flagAt drop 6 &&& ltcData = 0 := by cases drop <;> decide
  rw [BitVec.and_or_distrib_right, BitVec.and_assoc, BitVec.and_self, apart]
  exact BitVec.or_zero

/-- The `DF` bit of the code written is that of the configured rate (R175). -/
theorem outCode_df (c : Word) (drop : Bool) : ((c &&& ltcData) ||| flagAt drop 6).getLsbD 6 = drop := by
  cases drop <;> simp [ltcData, flagAt]

/-- Outside the offset, the set flag and the run flag the control word repeats the configuration (R70). -/
theorem tcoCtlWord_configuration (cfg : TcoConfig) (run : Bool) (rt rt' : TcoRuntime) :
    tcoCtlWord { cfg with run := run } rt' &&& ~~~0x00037f7f#32 = tcoCtlWord cfg rt &&& ~~~0x00037f7f#32 := by
  apply BitVec.eq_of_getLsbD_eq
  intro b hb
  rw [BitVec.getLsbD_and, BitVec.getLsbD_and, tcoCtlWord_getLsbD _ _ _ hb, tcoCtlWord_getLsbD _ _ _ hb]
  interval_cases b <;> simp

theorem ofInt_toNat (n : Nat) (v : Int) : ((BitVec.ofInt n v).toNat : Int) = v % 2 ^ n := by
  rw [BitVec.toNat_ofInt, Int.toNat_of_nonneg (Int.emod_nonneg _ (by positivity))]
  norm_cast

/-- Settles O48: the inputs in numbers, and the words of `scheduleWith_eq` bit by bit. -/
theorem scheduleArmsOutput : Obligations.ScheduleArmsOutput := by
  refine ⟨calibAt_eq_some_iff, fun s w later => wallAnswer_of_cons, ?_⟩
  intro s r cal rate entry fpsCode fps drop scale fn pn fs floor target plan off tooWide
  have info : fpsOf s.cfg.fpsCode = ⟨fps, drop, scale⟩ := fpsOf_eq _
  have planned : schedulePlan s r = plan := by
    simp only [schedulePlan, frameSamples, info, resolveTarget_eq]
    rfl
  have floored : twoPeriodFloor s r = floor := rfl
  have step := (schedule_of_inputs rate entry).trans (scheduleWith_eq s r cal)
  simp only [planned, info, floored, afterResolve_env, Bool.if_true_left] at step
  refine ⟨_, _, _, ?digits, ?df, ?clean, ?offset, ?offsetField, ?setFlag, ?runFlag, ?otherFields, step⟩
  case digits => exact outCode_digits plan.code drop
  case df => exact outCode_df plan.code drop
  case clean => exact outCode_clean plan.code drop
  case offset => exact ofInt_toNat 14 off
  case offsetField => exact unpack14_tcoCtlWord _ _
  case setFlag => exact tcoCtlWord_getLsbD _ _ 16 (by decide)
  case runFlag => exact tcoCtlWord_getLsbD _ _ 17 (by decide)
  case otherFields => exact tcoCtlWord_configuration s.cfg true s.rt _

/-! ### The hook before it schedules (43_ltc_decoder R148) -/

/-- From `s` to `t` the hook has cleared the set flag and perhaps decoded: what scheduling and the output phase look at
is otherwise as it was. -/
structure OutputCleared (s t : State) : Prop extends HookStep s t where
  cfg : t.cfg = s.cfg
  pendKind : t.rt.pendKind = s.rt.pendKind
  outStart : t.rt.outStart = s.rt.outStart
  outWarn : t.rt.outWarn = s.rt.outWarn
  outArmed : t.rt.outArmed = false

theorem latchClear_cleared (s : State) : OutputCleared s (latchClear s) := by
  refine ⟨latchClear_hook s, ?_, latchClear_pendKind s, ?_, ?_, ?_⟩ <;> rw [latchClear_eq]

/-- Decoding publishes inbound fields only (R150). -/
theorem inboundDecode_output (s : State) :
    (inboundDecode s).cfg = s.cfg ∧ (inboundDecode s).rt.outStart = s.rt.outStart ∧
      (inboundDecode s).rt.outWarn = s.rt.outWarn ∧ (inboundDecode s).rt.outArmed = s.rt.outArmed := by
  rcases inboundDecode_cases s with ⟨-, e⟩ | ⟨r, -, e⟩ <;> rw [e] <;> exact ⟨rfl, rfl, rfl, rfl⟩

theorem inboundStep_output (s : State) :
    (inboundStep s).cfg = s.cfg ∧ (inboundStep s).rt.outStart = s.rt.outStart ∧
      (inboundStep s).rt.outWarn = s.rt.outWarn ∧ (inboundStep s).rt.outArmed = s.rt.outArmed := by
  unfold inboundStep
  split
  · exact inboundDecode_output s
  · exact ⟨rfl, rfl, rfl, rfl⟩

theorem OutputCleared.inboundStep {s t : State} (h : OutputCleared s t) : OutputCleared s (inboundStep t) := by
  obtain ⟨cfg, outStart, outWarn, outArmed⟩ := inboundStep_output t
  exact ⟨h.toHookStep.trans (inboundStep_hook t), cfg.trans h.cfg, (inboundStep_pendKind t).trans h.pendKind,
    outStart.trans h.outStart, outWarn.trans h.outWarn, outArmed.trans h.outArmed⟩

/-- With a request pending and its inputs there, the hook ends by scheduling it. -/
theorem tcoElapsed_schedules {s : State} {r : SysRate} {cal : Int} (present : s.rt.tcoPresent = true)
    (pending : s.rt.pendKind ≠ .none) (rate : RateIs s.conf s.hw.ctl r)
    (entry : CalibIs s.conf s.cfg.fpsCode r.mode cal) :
    ∃ d, OutputCleared s d ∧ tcoElapsed s = scheduleWith d r cal := by
  have cleared := (latchClear_cleared s).inboundStep
  refine ⟨_, cleared, ?_⟩
  rw [tcoElapsed_present s present, if_neg pending, schedule_of_inputs]
  · rwa [cleared.conf, cleared.hw]
  · rwa [cleared.conf, cleared.cfg]

/-! ### The inputs of a well-formed device (30_encoding R63, 00_scope R6) -/

/-- The ranges that a well-formed table of rates gives its entries. -/
theorem RateIs.bounds {conf : Config} {ctl : Word} {r : SysRate} (rate : RateIs conf ctl r) (ok : conf.ok = true) :
    (r.sf = 1 ∨ r.sf = 2 ∨ r.sf = 4) ∧ 32000 ≤ r.sr1 ∧ r.mode < 3 := by
  obtain ⟨base, speed, row, mode⟩ := rate
  obtain ⟨-, -, -, -, -, ⟨-, entries⟩, -⟩ := (Config.ok_iff conf).mp ok
  obtain ⟨e, he, factor, low, -⟩ := entries _ (Nat.mod_lt _ (by decide)) base speed
  obtain rfl : e = ⟨r.sr1, r.sf⟩ := Option.some.inj (Option.some.inj (he.symm.trans row))
  exact ⟨factor, low, by omega⟩

theorem Inv.exists_rate {s : State} (h : Inv s) : ∃ r, RateIs s.conf s.hw.ctl r := by
  obtain ⟨base, speed⟩ := (rateValid_iff _).mp h.rate
  rw [rateCode_toNat] at base speed
  obtain ⟨-, -, -, -, -, ⟨-, entries⟩, -⟩ := (Config.ok_iff s.conf).mp h.confOk
  obtain ⟨e, row, -⟩ := entries _ (Nat.mod_lt _ (by decide)) base speed
  exact ⟨⟨e.sr1, e.sf, _⟩, base, speed, row, rfl⟩

/-- `CALIB` has four rows of three. -/
theorem exists_calib {conf : Config} (ok : conf.ok = true) (f : BitVec 2) {m : Nat} (mode : m < 3) :
    ∃ cal, CalibIs conf f m cal := by
  obtain ⟨-, -, ⟨rows, columns⟩, -⟩ := (Config.ok_iff conf).mp ok
  have hrow : f.toNat < conf.calib.length := by omega
  have hcol : m < conf.calib[f.toNat].length := by rwa [columns _ (List.getElem_mem hrow)]
  exact ⟨_, _, List.getElem?_eq_getElem hrow, List.getElem?_eq_getElem hcol⟩

/-! ### The output phase (10_state R30, R179) -/

theorem outPhase_eq {s : State} {r : SysRate} (rate : RateIs s.conf s.hw.ctl r) :
    outPhase s = some (
      if s.cfg.run = false then .idle
      else if s.rt.outArmed = true then .armed
      else if s.fc.frameCount.toNat / r.sf < s.rt.outStart.toNat then .latched else .running) := by
  simp only [outPhase, (sysRate_eq_some_iff _ _ _).mpr rate]
  split_ifs <;> rfl

theorem outPhase_eq_armed_iff (s : State) : outPhase s = some .armed ↔ s.cfg.run = true ∧ s.rt.outArmed = true := by
  unfold outPhase
  cases s.cfg.run
  · simp
  cases s.rt.outArmed
  · simp only [Bool.true_eq_false, if_false, Bool.false_eq_true, and_false, iff_false]
    split
    · nofun
    · split <;> nofun
  · simp

/-- Running output that is not armed is latched or running. -/
theorem outPhase_of_running {s : State} {r : SysRate} (rate : RateIs s.conf s.hw.ctl r) (running : s.cfg.run = true)
    (cleared : s.rt.outArmed = false) : outPhase s = some .latched ∨ outPhase s = some .running := by
  rw [outPhase_eq rate, if_neg (by simp [running]), if_neg (by simp [cleared])]
  split
  · exact .inl rfl
  · exact .inr rfl

/-- Clearing a set flag that is not set keeps the phase. -/
theorem OutputCleared.outPhase_eq {s t : State} (h : OutputCleared s t) (idle : s.rt.outArmed = false) :
    outPhase t = outPhase s := by
  simp only [outPhase, h.conf, h.hw, h.fc, h.cfg, h.outStart, h.outArmed, idle]

/-- Settles O50: a request is scheduled, which arms; without one the hook only clears, and only armed output has
something to clear. -/
theorem hookMovesThePhase : Obligations.HookMovesThePhase := by
  refine ⟨fun s r => outPhase_eq, ?_⟩
  intro s inv present t
  obtain ⟨r, rate⟩ := inv.exists_rate
  by_cases nothing : s.rt.pendKind = .none
  · have cleared := (latchClear_cleared s).inboundStep
    have hook : t = inboundStep (latchClear s) := by
      simp only [t, tcoElapsed_present s present, nothing, if_true]
    rw [hook]
    refine ⟨fun pending => absurd nothing pending, fun _ armed => ?_, fun _ unarmed => ?_⟩
    · obtain ⟨running, -⟩ := (outPhase_eq_armed_iff s).mp armed
      refine outPhase_of_running (r := r) ?_ (cleared.cfg ▸ running) cleared.outArmed
      rwa [cleared.conf, cleared.hw]
    · refine cleared.outPhase_eq (Bool.eq_false_of_not_eq_true fun armed => unarmed ?_)
      exact (outPhase_eq_armed_iff s).mpr ⟨inv.armedRuns armed, armed⟩
  · refine ⟨fun pending => ?_, fun none => absurd none nothing, fun none => absurd none nothing⟩
    obtain ⟨-, -, mode⟩ := rate.bounds inv.confOk
    obtain ⟨cal, entry⟩ := exists_calib inv.confOk s.cfg.fpsCode mode
    obtain ⟨d, -, scheduled⟩ := tcoElapsed_schedules present pending rate entry
    simp only [t, scheduled, scheduleWith_eq, outPhase_eq_armed_iff, and_self]

/-! ### Look-ahead (R181) -/

theorem frameSamples_pos {sr1 : Nat} (low : 32000 ≤ sr1) (f : BitVec 2) : 0 < frameSamples sr1 f := by
  simp only [frameSamples, fpsOf_eq]
  have scale : (if f.toNat = 2 then 999 else 1000) ≤ 1000 := by split <;> omega
  have rate : (if f.toNat = 0 then 24 else if f.toNat = 1 then 25 else 30) ≤ 30 := by split_ifs <;> omega
  refine Nat.div_pos ((Nat.mul_le_mul rate scale).trans (by omega)) (Nat.mul_pos ?_ ?_) <;> split_ifs <;> decide

/-- A "start now" request starts within a frame beyond the floor (R171). -/
theorem schedulePlan_now {s : State} {r : SysRate} (now : s.rt.pendKind = .now)
    (period : 0 < s.fc.periodSize.toNat / r.sf) (frame : 0 < frameSamples r.sr1 s.cfg.fpsCode) :
    twoPeriodFloor s r ≤ (schedulePlan s r).start ∧
      (schedulePlan s r).start < twoPeriodFloor s r + frameSamples r.sr1 s.cfg.fpsCode := by
  have target (drop : Bool) (fn : Int) : resolveTarget s r drop fn = ⟨s.rt.pendCode, fn⟩ := by
    rw [resolveTarget_eq, now]
    rfl
  have early : ((norm s.fc.frameCount.toNat r.sf : Nat) : Int) < twoPeriodFloor s r := by
    simp only [twoPeriodFloor, norm]
    omega
  obtain ⟨n, -, plan, reached, near⟩ := planFrom_early (t := ⟨s.rt.pendCode, (norm s.fc.frameCount.toNat r.sf : Nat)⟩)
    (fps := (fpsOf s.cfg.fpsCode).fps) (drop := (fpsOf s.cfg.fpsCode).drop) (Int.natCast_pos.mpr frame) early
  rw [schedulePlan, target, plan]
  exact ⟨reached, near⟩

/-- What scheduling stores when the offset fits its 14 bits (R174 to R176). -/
theorem scheduleWith_of_fits {s : State} {r : SysRate} {cal off : Int}
    (lead : off = (schedulePlan s r).start - twoPeriodFloor s r - cal) (low : 0 ≤ off) (high : off < 16384) :
    (scheduleWith s r cal).rt.outArmed = true ∧ (scheduleWith s r cal).rt.outWarn = s.rt.outWarn ∧
      (scheduleWith s r cal).rt.outStart = BitVec.ofInt 64 (schedulePlan s r).start ∧
      (scheduleWith s r cal).rt.outOffset = BitVec.ofInt 14 off := by
  have fits : ¬(off < 0 ∨ 16383 < off) := by omega
  simp only [scheduleWith_eq, ← lead, if_neg fits, and_self]

/-- A count of whole blocks of 32 frames is a count of single-speed frames, exactly (42_ltc_arith R135). -/
theorem norm_mul_of_granular {sf x : Nat} (factor : sf = 1 ∨ sf = 2 ∨ sf = 4) (granular : x % 32 = 0) :
    x / sf * sf = x := by
  rcases factor with rfl | rfl | rfl <;> omega

/-- The period of a well-formed device is some blocks of 32 frames (40_frame_counter R90). -/
theorem CoreInv.periodSize_bounds {s : State} (h : CoreInv s) :
    32 ≤ s.fc.periodSize.toNat ∧ s.fc.periodSize.toNat ≤ 8192 ∧ s.fc.periodSize.toNat % 32 = 0 := by
  obtain ⟨j, k, low, high, -, -, period, -⟩ := sizes_two_pow s h.confOk h.sizes
  rw [period]
  exact ⟨Nat.pow_le_pow_right Nat.two_pos low, Nat.pow_le_pow_right Nat.two_pos high,
    Nat.mod_eq_zero_of_dvd (pow_dvd_pow 2 (m := 5) low)⟩

theorem ofInt_toNat_of_range {n : Nat} {v : Int} (low : 0 ≤ v) (high : v < 2 ^ n) :
    ((BitVec.ofInt n v).toNat : Int) = v := by
  rw [ofInt_toNat, Int.emod_eq_of_lt low high]

/-- The look-ahead property of the scheduling step. -/
theorem scheduleWith_lookAhead {s : State} {r : SysRate} {cal : Int} (inv : CoreInv s) (now : s.rt.pendKind = .now)
    (rate : RateIs s.conf s.hw.ctl r) (low : (frameSamples r.sr1 s.cfg.fpsCode : Int) - 16384 ≤ cal) (high : cal ≤ 0)
    (small : s.fc.frameCount.toNat < 2 ^ 63) :
    let rt := (scheduleWith s r cal).rt
    rt.outArmed = true ∧ rt.outWarn = s.rt.outWarn ∧
      s.fc.frameCount.toNat + 2 * s.fc.periodSize.toNat ≤ rt.outStart.toNat * r.sf ∧
      (rt.outOffset.toNat : Int) =
        rt.outStart.toNat - (s.fc.frameCount.toNat / r.sf + 2 * (s.fc.periodSize.toNat / r.sf)) - cal ∧
      (rt.outOffset.toNat : Int) < frameSamples r.sr1 s.cfg.fpsCode - cal := by
  intro rt
  obtain ⟨factor, base, -⟩ := rate.bounds inv.confOk
  obtain ⟨periodLow, periodHigh, periodWhole⟩ := inv.periodSize_bounds
  have count := norm_mul_of_granular factor inv.granular
  have period := norm_mul_of_granular factor periodWhole
  have countLe := Nat.div_le_self s.fc.frameCount.toNat r.sf
  have periodLe := Nat.div_le_self s.fc.periodSize.toNat r.sf
  have periodPos : 0 < s.fc.periodSize.toNat / r.sf := by
    refine Nat.pos_of_ne_zero fun zero => ?_
    rw [zero, Nat.zero_mul] at period
    omega
  obtain ⟨reached, near⟩ := schedulePlan_now now periodPos (frameSamples_pos base _)
  obtain ⟨off, lead⟩ : ∃ off, off = (schedulePlan s r).start - twoPeriodFloor s r - cal := ⟨_, rfl⟩
  obtain ⟨armed, warn, outStart, outOffset⟩ := scheduleWith_of_fits lead (by omega) (by omega)
  have floor : twoPeriodFloor s r =
      (s.fc.frameCount.toNat / r.sf : Nat) + 2 * (s.fc.periodSize.toNat / r.sf : Nat) := rfl
  have floorNonneg : 0 ≤ twoPeriodFloor s r := by
    rw [floor]
    positivity
  have start : (rt.outStart.toNat : Int) = (schedulePlan s r).start := by
    rw [outStart]
    exact ofInt_toNat_of_range (by omega) (by omega)
  have offset : (rt.outOffset.toNat : Int) = off := by
    rw [outOffset]
    exact ofInt_toNat_of_range (by omega) (by omega)
  refine ⟨armed, warn, ?_, by omega, by omega⟩
  calc s.fc.frameCount.toNat + 2 * s.fc.periodSize.toNat
      = (s.fc.frameCount.toNat / r.sf + 2 * (s.fc.periodSize.toNat / r.sf)) * r.sf := by
        rw [Nat.add_mul, Nat.mul_assoc, count, period]
    _ ≤ rt.outStart.toNat * r.sf := Nat.mul_le_mul_right _ (by omega)

/-- An audio interrupt leaves the timecode record that the hook makes, and the count that it starts from (R112). -/
theorem execIrq_audio {s : State} (up : s.devUp = true) (audio : statusAudio s.conf (readAnswer .status s) = true) :
    ∃ t, execIrq s = .next t ∧ t.fc = (fcUpdate (acknowledge (takeSnapshot s))).fc ∧
      t.rt = (tcoElapsed (fcUpdate (acknowledge (takeSnapshot s)))).rt := by
  obtain ⟨ctl, pend, served, -⟩ := serviceIrq_audio (s := takeSnapshot s) audio
  refine ⟨_, (execIrq_asserted up (.inl audio)).trans (congrArg _ served), ?_, ?_⟩
  · exact audioStep_fc _
  · exact audioStep_rt _

theorem Inv.takeSnapshot {s : State} (h : Inv s) : Inv (takeSnapshot s) :=
  h.congr ⟨rfl, rfl, rfl, rfl, rfl, rfl⟩ ⟨rfl, rfl, rfl, rfl, rfl, rfl⟩

/-- Settles O51: the hook schedules the request on the count of this interrupt. -/
theorem lookAhead : Obligations.LookAhead := by
  intro s r cal inv up present now audio rate entry fs low high
  obtain ⟨t, done, hfc, hrt⟩ := execIrq_audio up audio
  have before : Inv (fcUpdate (acknowledge (takeSnapshot s))) := inv.takeSnapshot.acknowledge.fcUpdate
  have pending : (fcUpdate (acknowledge (takeSnapshot s))).rt.pendKind = .now := now
  obtain ⟨d, cleared, scheduled⟩ := tcoElapsed_schedules (s := fcUpdate (acknowledge (takeSnapshot s))) present
    (by rw [pending]; nofun) rate entry
  have core : CoreInv d := ((inv_iff _).mp before).1.congr cleared.sameCore
  have frame : frameSamples r.sr1 d.cfg.fpsCode = fs := by rw [cleared.cfg]; rfl
  have ahead := scheduleWith_lookAhead (r := r) (cal := cal) core (cleared.pendKind.trans pending)
    (by rwa [cleared.conf, cleared.hw]) (by rwa [frame]) high
  rw [frame, cleared.fc, cleared.outWarn, ← hfc, ← scheduled, ← hrt] at ahead
  exact ⟨t, done, ahead⟩

end Sys2Proof.Machine

/-! The estimate of the drift estimator in numbers (spec/45_drift_estimator.md R190, R193, R196): the integer formula as
the rounding of a rational, and what a ring of equal durations gives. -/

namespace Sys2Proof.Machine

/-! ### The estimate as a rounded quotient (R190, R196) -/

/-- The nominal rate of every code is positive (R73), so no denominator of R190 is zero. -/
theorem fpsOf_pos (f : BitVec 2) : 0 < (fpsOf f).fps ∧ 0 < (fpsOf f).scale := by
  rw [fpsOf_eq]
  constructor <;> dsimp only <;> split_ifs <;> decide

/-- The quotient that `PULL.UPDATE` takes instead of a rational one is that one rounded half up: both halves of
`num / den + 1 / 2` go over the denominator `2 * den`. -/
theorem floor_div_add_half {num den : Nat} (pos : 0 < den) :
    ⌊(num / den : ℚ) + 1 / 2⌋ = ((2 * num + den) / (2 * den) : Nat) := by
  have den_ne : (den : ℚ) ≠ 0 := Nat.cast_ne_zero.mpr pos.ne'
  have common : (num / den : ℚ) + 1 / 2 = (2 * num + den : Nat) / (2 * den : Nat) := by
    push_cast
    field_simp
  rw [common, Rat.floor_natCast_div_natCast, Int.natCast_ediv]

/-- The effective rate against the nominal one, in parts per thousand, is the fraction whose numerator and denominator
`PULL.UPDATE` forms. -/
theorem rate_ratio_eq_div {cnt sum fps scale : Nat} (sum_pos : 0 < sum) (fps_pos : 0 < fps) (scale_pos : 0 < scale) :
    (1000000000 * cnt / sum * 1000 / (fps * scale / 1000) : ℚ) =
      (10 ^ 15 * cnt : Nat) / (sum * fps * scale : Nat) := by
  have sum_ne : (sum : ℚ) ≠ 0 := Nat.cast_ne_zero.mpr sum_pos.ne'
  have fps_ne : (fps : ℚ) ≠ 0 := Nat.cast_ne_zero.mpr fps_pos.ne'
  have scale_ne : (scale : ℚ) ≠ 0 := Nat.cast_ne_zero.mpr scale_pos.ne'
  push_cast
  field_simp
  ring

/-- Settles O40: the ratio of the rates is one fraction of whole numbers, and the integer formula rounds it. -/
theorem pullEstimateIsRounded : Obligations.PullEstimateIsRounded := by
  intro cnt sum fpsCode sum_pos i realFps nominalFps
  obtain ⟨fps_pos, scale_pos⟩ : 0 < i.fps ∧ 0 < i.scale := fpsOf_pos fpsCode
  have ratio : realFps * 1000 / nominalFps = (10 ^ 15 * cnt : Nat) / (sum * i.fps * i.scale : Nat) :=
    rate_ratio_eq_div sum_pos fps_pos scale_pos
  rw [ratio, floor_div_add_half (Nat.mul_pos (Nat.mul_pos sum_pos fps_pos) scale_pos)]
  exact Nat.cast_min _ _

/-! ### Equal durations (R193) -/

/-- `n` equal durations give the estimate of one of them: `n` cancels in the quotient. -/
theorem pullEstimate_equal_durations {n : Nat} (pos : 0 < n) (d : Nat) (f : BitVec 2) :
    pullEstimate n (n * d) f = pullEstimate 1 d f := by
  simp only [pullEstimate]
  generalize (fpsOf f).fps = fps
  generalize (fpsOf f).scale = scale
  have num : 2 * (10 ^ 15 * n) + n * d * fps * scale = n * (2 * (10 ^ 15 * 1) + d * fps * scale) := by ring
  have den : 2 * (n * d * fps * scale) = n * (2 * (d * fps * scale)) := by ring
  rw [num, den, Nat.mul_div_mul_left _ _ pos]

/-- Settles O41: each vector is that of a single duration. -/
theorem pullFactorVectors : Obligations.PullFactorVectors := by
  intro n pos
  simp only [pullEstimate_equal_durations pos]
  decide

end Sys2Proof.Machine

/-! Configuration, status and lifetime (spec/46_config_status.md R200 to R222): the setter template once for all setters
that follow it, the run flag case by case, the status record, and what the two ends of the lifetime leave behind. -/

namespace Sys2Proof.Machine

/-! ### The two pushes as register writes (20_memory R45, 30_encoding R70, R71) -/

theorem pushTcoCtl_eq (s : State) : pushTcoCtl s = regWrite .tcoCtl (tcoCtlWord s.cfg s.rt) s := by
  rw [pushTcoCtl, tcoWrite, tcoCtlWord_and_tcoMask]

theorem pushTcoCtl2_eq (s : State) : pushTcoCtl2 s = regWrite .tcoCtl2 (BitVec.ofNat 32 s.cfg.wckConv.toNat) s := by
  rw [pushTcoCtl2, tcoWrite, tcoCtl2Word_and_tcoMask, tcoCtl2Word, BitVec.ofNat_toNat]

/-! ### The setter template (R200) -/

/-- A command that `cfgSetter` means follows the template: `stored` is what the model stores, which on a legal operand is
the wanted configuration and has the operand as its field; `push` writes the register once. -/
theorem setterBehaves_of_cfgSetter {i : U64 → Instr} {max : Nat} {old : TcoConfig → Nat}
    {store : U64 → TcoConfig → TcoConfig} {push : State → State} {reg : WriteReg}
    {word : TcoConfig → TcoRuntime → Word} {id : BitVec 8} (stored : U64 → TcoConfig → TcoConfig)
    (meaning : ∀ v s, exec (i v) s =
      cfgSetter max (old s.cfg) (fun s => { s with cfg := stored v s.cfg }) push id v s)
    (legal : ∀ v c, v.toNat ≤ max → stored v c = store v c ∧ old (store v c) = v.toNat)
    (carried : ∀ s, push s = regWrite reg (word s.cfg s.rt) s) :
    SetterBehaves i max old store reg word id := by
  intro v s
  rw [meaning]
  refine ⟨fun away => if_pos ((tcoUnavailable_eq_true s).mpr away), fun up present => ?_⟩
  have ready : tcoUnavailable s = false := (tcoUnavailable_eq_false s).mpr ⟨up, present⟩
  rw [cfgSetter, if_neg (by simp [ready])]
  refine ⟨fun above => if_pos above, fun same le => ?_, fun changed le => ?_⟩
  · rw [if_neg (Nat.not_lt.mpr le), if_pos same]
    rfl
  · obtain ⟨stores, holds⟩ := legal v s.cfg le
    refine ⟨holds, ?_⟩
    rw [if_neg (Nat.not_lt.mpr le), if_neg changed, carried, stores]
    simp [answer, regWrite, emit]

section
variable {i : U64 → Instr} {id : BitVec 8}

/-- A field of `n` bits takes a legal operand as it is. -/
theorem setterBehaves_code {n max : Nat} {push : State → State} {reg : WriteReg} {word : TcoConfig → TcoRuntime → Word}
    (get : TcoConfig → BitVec n) (set : BitVec n → TcoConfig → TcoConfig) (get_set : ∀ f c, get (set f c) = f)
    (fits : max < 2 ^ n) (carried : ∀ s, push s = regWrite reg (word s.cfg s.rt) s)
    (meaning : ∀ v s, exec (i v) s =
      cfgSetter max (get s.cfg).toNat (fun s => { s with cfg := set (v.setWidth n) s.cfg }) push id v s) :
    SetterBehaves i max (fun c => (get c).toNat) (fun v c => set (BitVec.ofNat n v.toNat) c) reg word id := by
  refine setterBehaves_of_cfgSetter (fun v c => set (v.setWidth n) c) meaning (fun v c le => ⟨?_, ?_⟩) carried
  · rw [BitVec.ofNat_toNat]
  · rw [get_set, BitVec.toNat_ofNat, Nat.mod_eq_of_lt (Nat.lt_of_le_of_lt le fits)]

/-- A flag takes a legal operand as it is, for "not 0" is then "1". -/
theorem setterBehaves_flag (get : TcoConfig → Bool) (set : Bool → TcoConfig → TcoConfig)
    (get_set : ∀ b c, get (set b c) = b)
    (meaning : ∀ v s, exec (i v) s =
      cfgSetter 1 (get s.cfg).toNat (fun s => { s with cfg := set (v != 0) s.cfg }) pushTcoCtl id v s) :
    SetterBehaves i 1 (fun c => if get c then 1 else 0) (fun v c => set (decide (v = 1)) c) .tcoCtl tcoCtlWord id := by
  have number (b : Bool) : b.toNat = if b then 1 else 0 := by cases b <;> rfl
  simp only [number] at meaning
  refine setterBehaves_of_cfgSetter (fun v c => set (v != 0) c) meaning (fun v c le => ?_) pushTcoCtl_eq
  have either : v = 0 ∨ v = 1 := by bv_omega
  rw [get_set]
  rcases either with rfl | rfl <;> exact ⟨rfl, rfl⟩

end

/-- Settles O52: each setter is the template with its own field. -/
theorem tcoCtlSetters : Obligations.TcoCtlSetters := by
  refine ⟨?sync, ?fps, ?srate, ?pull, ?term, ?flywheel⟩
  case sync =>
    exact setterBehaves_code (·.syncSrc) (fun f c => { c with syncSrc := f }) (fun _ _ => rfl) (by decide)
      pushTcoCtl_eq fun _ _ => rfl
  case fps =>
    exact setterBehaves_code (·.fpsCode) (fun f c => { c with fpsCode := f }) (fun _ _ => rfl) (by decide)
      pushTcoCtl_eq fun _ _ => rfl
  case srate =>
    exact setterBehaves_code (·.srateMode) (fun f c => { c with srateMode := f }) (fun _ _ => rfl) (by decide)
      pushTcoCtl_eq fun _ _ => rfl
  case pull =>
    exact setterBehaves_code (·.pull) (fun f c => { c with pull := f }) (fun _ _ => rfl) (by decide)
      pushTcoCtl_eq fun _ _ => rfl
  case term =>
    exact setterBehaves_flag (·.term75) (fun b c => { c with term75 := b }) (fun _ _ => rfl) fun _ _ => rfl
  case flywheel =>
    exact setterBehaves_flag (·.flywheel) (fun b c => { c with flywheel := b }) (fun _ _ => rfl) fun _ _ => rfl

/-! ### `CFG.WCK` (R205) -/

/-- The two rows of the table of R41 for `TCO_CTL2`. -/
theorem writer_of_mayWrite_tcoCtl2 {i : Instr} (may : mayWrite i .tcoCtl2 = true) :
    (∃ w, i = .cfgWck w) ∨ ∃ p, i = .devInit p := by
  cases i with
  | cfgWck w => exact .inl ⟨w, rfl⟩
  | devInit p => exact .inr ⟨p, rfl⟩
  | _ => exact absurd may Bool.false_ne_true

/-- Settles O53: the template over the other register, which the table of R41 gives to no third operation. -/
theorem wordClockSetter : Obligations.WordClockSetter := by
  refine ⟨?template, fun i s t es v h added hm => ?writers⟩
  case template =>
    exact setterBehaves_code (·.wckConv) (fun f c => { c with wckConv := f }) (fun _ _ => rfl) (by decide)
      pushTcoCtl2_eq fun _ _ => rfl
  case writers => exact writer_of_mayWrite_tcoCtl2 (exec_allowedWrite h added hm).table

/-! ### `CFG.RUN` (R207) -/

section
variable {v : U64} {s : State}

theorem execCfgRun_illegal (ready : tcoUnavailable s = false) (illegal : 1 < v.toNat) :
    execCfgRun v s = raise .inval s := by
  rw [execCfgRun, if_neg (by simp [ready]), if_pos illegal]

/-- Clearing the run flag does all that `LTC.STOP` does. -/
theorem execCfgRun_zero_idle (ready : tcoUnavailable s = false) (idle : s.cfg.run = false) :
    execCfgRun 0 s = answer .ok false .none (clearPending s) := by
  rw [execCfgRun, if_neg (by simp [ready]), if_neg (by decide), if_pos rfl, if_neg (by simp [idle])]

theorem execCfgRun_zero_running (ready : tcoUnavailable s = false) (running : s.cfg.run = true) :
    execCfgRun 0 s = answer .ok true .none (emit (.notifyCtl 0x56) (stopOutput (clearPending s))) := by
  rw [execCfgRun, if_neg (by simp [ready]), if_neg (by decide), if_pos rfl, if_pos running]

theorem execCfgRun_one_running (ready : tcoUnavailable s = false) (running : s.cfg.run = true) :
    execCfgRun 1 s = answer .ok false .none s := by
  rw [execCfgRun, if_neg (by simp [ready]), if_neg (by decide), if_neg (by decide), if_pos running]

theorem execCfgRun_one_idle (ready : tcoUnavailable s = false) (idle : s.cfg.run = false) :
    execCfgRun 1 s = answer .ok true .none (applyCfg { s.cfg with run := true } 0x56 s) := by
  rw [execCfgRun, if_neg (by simp [ready]), if_neg (by decide), if_neg (by decide), if_neg (by simp [idle])]
  rfl

end

/-- The run flag is bit 17 of `TCO_CTL` and no other (30_encoding R70). -/
theorem tcoCtlWord_running (cfg : TcoConfig) (rt : TcoRuntime) :
    tcoCtlWord { cfg with run := true } rt = tcoCtlWord cfg rt ||| 0x00020000#32 := by
  apply BitVec.eq_of_getLsbD_eq
  intro b hb
  rw [BitVec.getLsbD_or, tcoCtlWord_getLsbD _ _ _ hb, tcoCtlWord_getLsbD _ _ _ hb]
  interval_cases b <;> simp

/-- Settles O54: the operand and the flag select the case; the two words differ from the old one in bits 16 and 17. -/
theorem runSetter : Obligations.RunSetter := by
  intro v s
  refine ⟨fun away => if_pos ((tcoUnavailable_eq_true s).mpr away), fun up present => ?_⟩
  have ready : tcoUnavailable s = false := (tcoUnavailable_eq_false s).mpr ⟨up, present⟩
  refine ⟨execCfgRun_illegal ready, ?stopIdle, ?stop, ?startRunning, ?start⟩
  case stopIdle =>
    rintro rfl idle
    exact execCfgRun_zero_idle ready idle
  case stop =>
    rintro rfl running
    refine (execCfgRun_zero_running ready running).trans ?_
    rw [stopOutput_eq, tcoCtlWord_stopped]
    simp only [answer, emit, List.append_assoc]
    rfl
  case startRunning =>
    rintro rfl running
    exact execCfgRun_one_running ready running
  case start =>
    rintro rfl idle
    refine (execCfgRun_one_idle ready idle).trans ?_
    rw [applyCfg_eq, tcoCtlWord_running]
    rfl

/-! ### `TCO.STATUS` (R215) -/

theorem execTcoStatus_up {s : State} (up : s.devUp = true) :
    execTcoStatus s =
      .next (s.answered (if s.rt.tcoPresent then .ok else .neutral) false (.snapshot (snapshotOf s))) := by
  rw [execTcoStatus, if_neg (by simp [up])]
  cases s.rt.tcoPresent <;> rfl

/-- Without a module the timecode fields are at their reset values (10_state R24), and those are the record's zeros. -/
theorem snapshotOf_absent {s : State} (inv : Inv s) (up : s.devUp = true) (absent : s.rt.tcoPresent = false) :
    snapshotOf s = { Snapshot.zero with
      frameCount := s.fc.frameCount, periodSize := s.fc.periodSize, irqCount := s.sch.irqCount, ctl := s.hw.ctl } := by
  rw [snapshotOf, inv.absent absent, inv.unset up absent]
  rfl

/-- Settles O55: the record is `snapshotOf`, field by field. -/
theorem statusSnapshot : Obligations.StatusSnapshot := by
  intro s
  refine ⟨fun down => if_pos down, fun up => ⟨snapshotOf s, execTcoStatus_up up, ?_⟩⟩
  have ringCnt : (snapshotOf s).ringCnt.toNat = s.rt.ringCnt % 2 ^ 32 := BitVec.toNat_ofNat _ _
  exact ⟨rfl, rfl, rfl, rfl, rfl, rfl, rfl, ringCnt, rfl, rfl, rfl, rfl, rfl, rfl, rfl, rfl, rfl, rfl, rfl, rfl,
    fun inv absent => snapshotOf_absent inv up absent⟩

/-! ### `DEV.INIT` (R220) -/

/-- The reset values, with a module or without, make `TCO_CTL` the zero word. -/
theorem tcoCtlWord_reset (conf : Config) (t : Bool) :
    tcoCtlWord TcoConfig.reset { TcoRuntime.reset conf with tcoPresent := t } = 0 := by
  simp [tcoCtlWord, pack14, flagAt, TcoConfig.reset, TcoRuntime.reset]

/-- Settles O56: the reset values, then one write of `CONTROL` and two more with a module. -/
theorem devInit : Obligations.DevInit := by
  intro tco s
  change execDevInit tco s = _
  cases tco with
  | false =>
    rw [if_neg Bool.false_ne_true, List.append_nil]
    rfl
  | true =>
    have ctlWord := tcoCtlWord_reset s.conf true
    simp only [execDevInit, pushTcoCtl_eq, pushTcoCtl2_eq, regWrite_cfg, regWrite_rt, initDevice_cfg, initDevice_rt,
      ctlWord, if_true]
    simp [answer, regWrite, emit, initDevice, State.powerOn, HwRegs.reset, TcoConfig.reset]

/-! ### `DEV.SHUTDOWN` (R222) -/

/-- The reset of the TcoRuntime and of the run flag clears bits 14:8, 6:0, 16 and 17 of `TCO_CTL` and no other. -/
theorem tcoCtlWord_shutdown (cfg : TcoConfig) (rt : TcoRuntime) (conf : Config) (t : Bool) :
    tcoCtlWord { cfg with run := false } { TcoRuntime.reset conf with tcoPresent := t } =
      tcoCtlWord cfg rt &&& ~~~0x00037f7f#32 := by
  apply BitVec.eq_of_getLsbD_eq
  intro b hb
  rw [BitVec.getLsbD_and, tcoCtlWord_getLsbD _ _ _ hb, tcoCtlWord_getLsbD _ _ _ hb]
  interval_cases b <;> simp [TcoRuntime.reset]

theorem shutdownTco_eq (s : State) :
    shutdownTco s = { s with
      cfg := if s.rt.tcoPresent then { s.cfg with run := false } else s.cfg
      rt := if s.rt.tcoPresent then TcoRuntime.reset s.conf else s.rt
      events := s.events ++
        if s.rt.tcoPresent then [.regwrite .tcoCtl (tcoCtlWord s.cfg s.rt &&& ~~~0x00037f7f#32)] else [] } := by
  cases present : s.rt.tcoPresent with
  | false => simp [shutdownTco, present]
  | true =>
    rw [shutdownTco, if_pos present, pushTcoCtl_eq, tcoCtlWord_shutdown s.cfg s.rt]
    rfl

theorem execDevShutdown_up {s : State} (up : s.devUp = true) :
    execDevShutdown s = answer .ok false .none (shutDown s) := if_neg (by simp [up])

theorem stoppedCtl_getLsbD_iff (n : Nat) (w : Word) (b : Nat) (hb : b < 32) :
    (stoppedCtl n w).getLsbD b = true ↔ w.getLsbD b = true ∧ b ≠ 0 ∧ b ≠ 5 ∧ ¬∃ p, p < n ∧ b = 22 + p := by
  have enable : (22 ≤ b ∧ b < 22 + n) ↔ ∃ p, p < n ∧ b = 22 + p :=
    ⟨fun ⟨low, high⟩ => ⟨b - 22, by omega, by omega⟩, fun ⟨p, hp, eq⟩ => by omega⟩
  rw [stoppedCtl_getLsbD _ _ _ hb, Bool.and_eq_true, decide_eq_true_eq, enable]

/-- Settles O57: the timecode part is one update, and the control word loses the run flag and the enables. -/
theorem devShutdown : Obligations.DevShutdown := by
  refine fun s => ⟨fun down => if_pos down, fun up =>
    ⟨stoppedCtl s.conf.nMidi s.hw.ctl, stoppedCtl_getLsbD_iff _ _, (execDevShutdown_up up).trans ?_⟩⟩
  rw [shutDown, shutdownTco_eq]
  rfl

end Sys2Proof.Machine

/-! The neutral no-ops (spec/60_exceptions.md R233): a device that is down turns every operation away but `DEV.INIT`, a
device without TCO module turns the timecode operations away. In each arm of `exec` that check comes first. -/

namespace Sys2Proof.Machine

section
variable {i : Instr} {s : State}

/-- No timecode operation but `TCO.STATUS` returns a value. -/
theorem zeroValue_of_needsTco (needs : needsTco i = true) : zeroValue i = .none := by
  cases i with
  | irq | fcRead | tcoStatus => exact absurd needs Bool.false_ne_true
  | _ => rfl

/-- A timecode operation that is turned away is a neutral no-op, whichever of the two causes it has. -/
theorem exec_of_tcoUnavailable (needs : needsTco i = true) (away : tcoUnavailable s = true) :
    exec i s = neutral .none s := by
  cases i with
  | mtcMsg | ltcStart | ltcStartNow | ltcStartWall | ltcStop | cfgSync | cfgFps | cfgSrate | cfgPull | cfgWck
  | cfgTerm | cfgRun | cfgFlywheel => exact if_pos away
  | _ => exact absurd needs Bool.false_ne_true

/-- The operations that do not go through the check for the module look at the device alone. -/
theorem exec_of_down_of_not_needsTco (notInit : ∀ t, i ≠ .devInit t) (free : needsTco i = false)
    (down : s.devUp = false) : exec i s = neutral (zeroValue i) s := by
  cases i with
  | devInit t => exact absurd rfl (notInit t)
  | devShutdown | irq | midiDone | pollSet | pcmAttach | ctlUpdate | fcSetlat | fcReset | fcRead | tcoStatus =>
    exact if_pos down
  | _ => exact absurd free.symm Bool.false_ne_true

/-- A device that is down turns every operation away but `DEV.INIT`. -/
theorem exec_of_down (notInit : ∀ t, i ≠ .devInit t) (down : s.devUp = false) :
    exec i s = neutral (zeroValue i) s := by
  cases needs : needsTco i with
  | false => exact exec_of_down_of_not_needsTco notInit needs down
  | true =>
    rw [zeroValue_of_needsTco needs]
    exact exec_of_tcoUnavailable needs ((tcoUnavailable_eq_true s).mpr (.inl down))

end

/-- Settles O15: `neutral` is the answer over the unchanged state, and the two causes of R233 are the two parts. -/
theorem neutralNoOps : Obligations.NeutralNoOps :=
  ⟨fun _ _ notInit down => exec_of_down notInit down,
    fun _ s needs absent => exec_of_tcoUnavailable needs ((tcoUnavailable_eq_true s).mpr (.inr absent))⟩

end Sys2Proof.Machine
